-- ==== Sys2Proof/Word.lean ====
section
/-! DEFINITION. The word types and the fixed sets of names the instructions and the state are built from. -/

namespace Sys2Proof

/-- A byte, the unit of memory (R12, R72). -/
abbrev Byte := BitVec 8
/-- A word, 2 bytes (R12). -/
abbrev W16 := BitVec 16
/-- A doubleword, 4 bytes (R12). -/
abbrev W32 := BitVec 32
/-- A quadword, 8 bytes (R12); also the container of every register of up to 64 bits (R21, R22). -/
abbrev W64 := BitVec 64

/-- The legacy prefix bytes of R152. -/
inductive LegacyPrefix where
  | lock | repne | rep | opSize | addrSize | es | cs | ss | ds | fs | gs
deriving DecidableEq, Repr

/-- The segment registers of R24. -/
inductive Seg where
  | cs | ds | ss | es | fs | gs
deriving DecidableEq, Repr

/-- The operating modes of R9. -/
inductive Mode where
  | realAddress | protectedMode | virtual8086 | compatibility | mode64
deriving DecidableEq, Repr

/-- The address sizes A of R157. -/
inductive AddrSize where
  | a16 | a32 | a64
deriving DecidableEq, Repr

/-- The general-purpose registers of R21, in the order their 4-bit numbers give (R157, R159). -/
inductive Gpr where
  | rax | rcx | rdx | rbx | rsp | rbp | rsi | rdi | r8 | r9 | r10 | r11 | r12 | r13 | r14 | r15
deriving DecidableEq, Repr

/-- The REX prefix 0100WRXB of R159. -/
structure Rex where
  w : Bool
  r : Bool
  x : Bool
  b : Bool
deriving DecidableEq, Repr

/-- The prefixes of one instruction as they lie in memory (R152): legacy prefixes in order, then REX. -/
structure Prefixes where
  legacy : List LegacyPrefix
  rex : Option Rex
deriving DecidableEq, Repr

/-- The SIB byte of R157. -/
structure Sib where
  scale : BitVec 2
  index : BitVec 3
  base : BitVec 3
deriving DecidableEq, Repr

/-- A displacement of 0, 1, 2 or 4 bytes (R152). -/
inductive Disp where
  | none
  | d8 (v : Byte)
  | d16 (v : W16)
  | d32 (v : W32)
deriving DecidableEq, Repr

/-- The `m8` operand as it is encoded (R153, R157): mod and r/m of ModR/M, SIB, displacement. -/
structure MemOp where
  mod : BitVec 2
  rm : BitVec 3
  sib : Option Sib
  disp : Disp
deriving DecidableEq, Repr

/-- The LOCK-able read-modify-write instructions of R93 and R243. -/
inductive LockOp where
  | bts | btr | btc | xadd | cmpxchg | cmpxchg8b | inc | dec | not | neg
  | add | adc | sub | sbb | and | or | xor
deriving DecidableEq, Repr

/-- A value: a constant or a register (R241). -/
inductive Src where
  | imm (v : W64)
  | reg (r : Gpr)
deriving DecidableEq, Repr

/-- The function f of a LOCK-prefixed instruction (R243), by its name and its source operand, where it has one. -/
structure LockFn where
  op : LockOp
  source : Option Src
deriving DecidableEq, Repr

/-- The memory types of R86. -/
inductive MemType where
  | uc | wc | wt | wb
deriving DecidableEq, Repr

/-- The handlers an interrupt enters: by its vector, or those of NMI and SMI (R308, R331). -/
inductive Handler where
  | vector (v : Byte)
  | nmi
  | smi
deriving DecidableEq, Repr

end Sys2Proof
end

