-- ==== Sys2Proof/Syntax.lean ====
section
/-! DEFINITION. The six instructions of spec/opcode_table.json. Each keeps its whole encoding, so that its
length and its bytes are functions of it (R150 to R162). -/

namespace Sys2Proof

/-- The instructions of the opcode table, one constructor per row (R190 to R192, R220 to R222). -/
inductive Instr where
  /-- `NP 0F AE /7`, memory form (R190). -/
  | clflush (px : Prefixes) (m : MemOp)
  /-- `NFx 66 0F AE /7`, memory form (R191). -/
  | clflushopt (px : Prefixes) (m : MemOp)
  /-- `66 0F AE /6`, memory form (R192). -/
  | clwb (px : Prefixes) (m : MemOp)
  /-- `NP 0F AE E8`, register form, r/m ignored (R220, R155). -/
  | lfence (px : Prefixes) (rm : BitVec 3)
  /-- `NP 0F AE F0`, register form, r/m ignored (R221, R155). -/
  | mfence (px : Prefixes) (rm : BitVec 3)
  /-- `NP 0F AE F8`, register form, r/m ignored (R222, R155). -/
  | sfence (px : Prefixes) (rm : BitVec 3)
deriving DecidableEq, Repr

end Sys2Proof
end

