-- ==== Sys2Proof/Decode.lean ====
section
/-! DEFINITION. The decoder of 30_encoding.md, total on any bytes and rejecting by name, and after it the encoder. -/

namespace Sys2Proof

/-! ## Bytes and fields -/

/-- The byte of a legacy prefix (R152). -/
def LegacyPrefix.toByte : LegacyPrefix → Byte
  | .lock => 0xF0#8
  | .repne => 0xF2#8
  | .rep => 0xF3#8
  | .opSize => 0x66#8
  | .addrSize => 0x67#8
  | .es => 0x26#8
  | .cs => 0x2E#8
  | .ss => 0x36#8
  | .ds => 0x3E#8
  | .fs => 0x64#8
  | .gs => 0x65#8

/-- The legacy prefix a byte is, if it is one (R152). -/
def legacyPrefixOf (b : Byte) : Option LegacyPrefix :=
  if b = 0xF0#8 then some .lock
  else if b = 0xF2#8 then some .repne
  else if b = 0xF3#8 then some .rep
  else if b = 0x66#8 then some .opSize
  else if b = 0x67#8 then some .addrSize
  else if b = 0x26#8 then some .es
  else if b = 0x2E#8 then some .cs
  else if b = 0x36#8 then some .ss
  else if b = 0x3E#8 then some .ds
  else if b = 0x64#8 then some .fs
  else if b = 0x65#8 then some .gs
  else none

/-- A Bool as one bit. -/
def bitOf (b : Bool) : BitVec 1 := if b then 1#1 else 0#1

/-- The byte 0100WRXB of a REX prefix (R159). -/
def Rex.toByte (r : Rex) : Byte :=
  4#4 ++ bitOf r.w ++ bitOf r.r ++ bitOf r.x ++ bitOf r.b

/-- The REX prefix a byte 40H to 4FH is (R159). -/
def rexOf (b : Byte) : Option Rex :=
  if b.extractLsb' 4 4 = 4#4 then
    some ⟨b.getLsbD 3, b.getLsbD 2, b.getLsbD 1, b.getLsbD 0⟩
  else none

/-- The ModR/M byte: mod in 7:6, reg in 5:3, r/m in 2:0 (R153). -/
def modrmByte (mod : BitVec 2) (reg rm : BitVec 3) : Byte := mod ++ reg ++ rm

def modOf (b : Byte) : BitVec 2 := b.extractLsb' 6 2
def regOf (b : Byte) : BitVec 3 := b.extractLsb' 3 3
def rmOf (b : Byte) : BitVec 3 := b.extractLsb' 0 3

/-- The SIB byte: scale in 7:6, index in 5:3, base in 2:0 (R157). -/
def Sib.toByte (s : Sib) : Byte := s.scale ++ s.index ++ s.base

def sibOf (b : Byte) : Sib := ⟨b.extractLsb' 6 2, b.extractLsb' 3 3, b.extractLsb' 0 3⟩

/-- Displacement bytes are little-endian (R157, R70). -/
def Disp.toBytes : Disp → List Byte
  | .none => []
  | .d8 v => [v]
  | .d16 v => [v.extractLsb' 0 8, v.extractLsb' 8 8]
  | .d32 v => [v.extractLsb' 0 8, v.extractLsb' 8 8, v.extractLsb' 16 8, v.extractLsb' 24 8]

/-! ## Address size and operand shape -/

/-- What decoding depends on besides the bytes: 64-bit mode, and the D flag of the code segment (R157). -/
structure DecodeEnv where
  long : Bool
  dFlag : Bool
deriving DecidableEq, Repr

/-- Whether a legacy prefix is present (P66, PF2, PF3, PLOCK of R154). -/
def Prefixes.has (px : Prefixes) (p : LegacyPrefix) : Bool := px.legacy.contains p

/-- The address size: 64 in 64-bit mode, else 32 or 16 by the D flag; 67H switches it (R157, R158). -/
def addrSizeOf (env : DecodeEnv) (px : Prefixes) : AddrSize :=
  match env.long, env.dFlag, px.has .addrSize with
  | true, _, false => .a64
  | true, _, true => .a32
  | false, true, false => .a32
  | false, true, true => .a16
  | false, false, false => .a16
  | false, false, true => .a32

/-- Whether a SIB byte follows ModR/M (R157): with 16-bit addressing never, else when r/m = 100B. -/
def sibFollows (a : AddrSize) (rm : BitVec 3) : Bool :=
  match a with
  | .a16 => false
  | .a32 => rm == 4#3
  | .a64 => rm == 4#3

/-- The displacement that follows a mod-00B operand without a base (R157): r/m = 110B with 16-bit
addressing, else r/m = 101B or SIB base 101B. -/
def dispAlone (a : AddrSize) (rm : BitVec 3) (sib : Option Sib) : Bool :=
  match a with
  | .a16 => rm == 6#3
  | .a32 => rm == 5#3 || (sib.map fun s => s.base == 5#3).getD false
  | .a64 => rm == 5#3 || (sib.map fun s => s.base == 5#3).getD false

/-- The length of a full displacement (R157). -/
def fullDisp (a : AddrSize) : Nat :=
  match a with | .a16 => 2 | .a32 => 4 | .a64 => 4

/-- The number of displacement bytes after ModR/M and SIB (R157). -/
def dispLen (a : AddrSize) (mod : BitVec 2) (rm : BitVec 3) (sib : Option Sib) : Nat :=
  if mod = 0#2 then (if dispAlone a rm sib then fullDisp a else 0)
  else if mod = 1#2 then 1
  else if mod = 2#2 then fullDisp a
  else 0

def Disp.length : Disp → Nat
  | .none => 0
  | .d8 _ => 1
  | .d16 _ => 2
  | .d32 _ => 4

/-! ## Length of an instruction: `ilen` of R13 -/

def Prefixes.length (px : Prefixes) : Nat := px.legacy.length + (if px.rex.isSome then 1 else 0)

def MemOp.length (m : MemOp) : Nat := (if m.sib.isSome then 1 else 0) + m.disp.length

/-- Prefixes, `0F AE`, ModR/M, SIB, displacement (R152, R155). -/
def Instr.length : Instr → Nat
  | .clflush px m => px.length + 3 + m.length
  | .clflushopt px m => px.length + 3 + m.length
  | .clwb px m => px.length + 3 + m.length
  | .lfence px _ => px.length + 3
  | .mfence px _ => px.length + 3
  | .sfence px _ => px.length + 3

/-! ## Decoding -/

/-- Why a byte string is outside the specification (R154 row 7, R161). -/
inductive Outside where
  /-- The opcode is not `0F AE`: another instruction, not in the source (R5). -/
  | otherOpcode
  /-- R161 (a): `0F AE /7` memory form with F2H or F3H and without 66H. -/
  | clflushWithRepeat
  /-- R161 (b): `66 0F AE /6` memory form with F2H or F3H. -/
  | clwbWithRepeat
  /-- R161 (c): `0F AE /6` memory form without 66H. -/
  | reg6Without66
  /-- R161 (d): register form reg = 5, 6, 7 with 66H, F2H or F3H. -/
  | fenceWithMandatoryPrefix
  /-- R161 (e): reg = 0 to 4 in either form, reg = 5 memory form. -/
  | otherReg
deriving DecidableEq, Repr

/-- What the decoder answers. -/
inductive Decoded where
  /-- An instruction and the bytes after it. -/
  | ok (i : Instr) (rest : List Byte)
  /-- Longer than 15 bytes: #GP(0) (R163). -/
  | tooLong
  /-- Outside the specification: refused (R161). -/
  | outside (r : Outside)
  /-- The bytes given end inside an instruction of at most 15 bytes. -/
  | incomplete
deriving DecidableEq, Repr

/-- The legacy prefixes at the front of the bytes, in order (R152). -/
def takeLegacy : List Byte → List LegacyPrefix × List Byte
  | [] => ([], [])
  | b :: t =>
    match legacyPrefixOf b with
    | some p => let (ps, r) := takeLegacy t; (p :: ps, r)
    | none => ([], b :: t)

/-- The REX prefix, in 64-bit mode only, immediately before the opcode (R159). -/
def takeRex (long : Bool) (bs : List Byte) : Option Rex × List Byte :=
  match bs with
  | [] => (none, [])
  | b :: t =>
    if long then
      match rexOf b with
      | some r => (some r, t)
      | none => (none, b :: t)
    else (none, b :: t)

/-- The SIB byte, where one follows. -/
def takeSib (a : AddrSize) (rm : BitVec 3) (bs : List Byte) : Option (Option Sib × List Byte) :=
  if sibFollows a rm then
    match bs with
    | [] => none
    | b :: t => some (some (sibOf b), t)
  else some (none, bs)

/-- A displacement of n bytes, little-endian (R157). -/
def takeDisp (n : Nat) (bs : List Byte) : Option (Disp × List Byte) :=
  match n, bs with
  | 0, bs => some (.none, bs)
  | 1, b0 :: t => some (.d8 b0, t)
  | 2, b0 :: b1 :: t => some (.d16 (b1 ++ b0), t)
  | 4, b0 :: b1 :: b2 :: b3 :: t => some (.d32 (b3 ++ b2 ++ b1 ++ b0), t)
  | _, _ => none

/-- The memory operand after ModR/M (R157). -/
def takeMemOp (a : AddrSize) (mod : BitVec 2) (rm : BitVec 3) (bs : List Byte) :
    Option (MemOp × List Byte) :=
  match takeSib a rm bs with
  | none => none
  | some (sib, bs) =>
    match takeDisp (dispLen a mod rm sib) bs with
    | none => none
    | some (d, bs) => some (⟨mod, rm, sib, d⟩, bs)

/-- Rows 1 to 3 of R154 and the refusals of R161 (a), (b), (c), (e) for a memory form. -/
def memRow (px : Prefixes) (reg : BitVec 3) (m : MemOp) : Instr ⊕ Outside :=
  let f := px.has .repne || px.has .rep
  if reg = 7#3 then
    if px.has .opSize then .inl (.clflushopt px m)
    else if f then .inr .clflushWithRepeat else .inl (.clflush px m)
  else if reg = 6#3 then
    if px.has .opSize then (if f then .inr .clwbWithRepeat else .inl (.clwb px m))
    else .inr .reg6Without66
  else .inr .otherReg

/-- Rows 4 to 6 of R154 and the refusals of R161 (d), (e) for a register form. -/
def regRow (px : Prefixes) (reg rm : BitVec 3) : Instr ⊕ Outside :=
  let f := px.has .opSize || px.has .repne || px.has .rep
  if reg = 5#3 then (if f then .inr .fenceWithMandatoryPrefix else .inl (.lfence px rm))
  else if reg = 6#3 then (if f then .inr .fenceWithMandatoryPrefix else .inl (.mfence px rm))
  else if reg = 7#3 then (if f then .inr .fenceWithMandatoryPrefix else .inl (.sfence px rm))
  else .inr .otherReg

/-- The answer for a byte string whose length is known: over 15 bytes first, then the row (R163). -/
def finishDecode (len : Nat) (row : Instr ⊕ Outside) (rest : List Byte) : Decoded :=
  if 15 < len then .tooLong
  else match row with
    | .inl i => .ok i rest
    | .inr r => .outside r

/-- Decoding from ModR/M on. -/
def decodeModrm (a : AddrSize) (px : Prefixes) (b : Byte) (rest : List Byte) : Decoded :=
  if modOf b = 3#2 then finishDecode (px.length + 3) (regRow px (regOf b) (rmOf b)) rest
  else
    match takeMemOp a (modOf b) (rmOf b) rest with
    | none => .incomplete
    | some (m, rest) => finishDecode (px.length + 3 + m.length) (memRow px (regOf b) m) rest

/-- Decoding from the opcode on. -/
def decodeOpcode (a : AddrSize) (px : Prefixes) (bs : List Byte) : Decoded :=
  match bs with
  | [] => .incomplete
  | o0 :: t0 =>
    if o0 = 0x0F#8 then
      match t0 with
      | [] => .incomplete
      | o1 :: t1 =>
        if o1 = 0xAE#8 then
          match t1 with
          | [] => .incomplete
          | b :: rest => decodeModrm a px b rest
        else .outside .otherOpcode
    else .outside .otherOpcode

/-- The answer where the bytes end: with 15 bytes there the instruction is longer than 15 (R163). -/
def finishIncomplete (n : Nat) (d : Decoded) : Decoded :=
  match d with
  | .incomplete => if 15 ≤ n then .tooLong else .incomplete
  | d => d

/-- Decode the instruction at the front of the bytes (R152 to R163). Prefixes that alone fill 15 bytes
make it longer than 15. -/
def decode (env : DecodeEnv) (bytes : List Byte) : Decoded :=
  let legacy := (takeLegacy bytes).1
  let rex := (takeRex env.long (takeLegacy bytes).2).1
  let rest := (takeRex env.long (takeLegacy bytes).2).2
  let px : Prefixes := ⟨legacy, rex⟩
  if 15 ≤ px.length then .tooLong
  else finishIncomplete bytes.length (decodeOpcode (addrSizeOf env px) px rest)

/-! ## Encoding -/

/-- The prefix bytes in memory order (R152). -/
def Prefixes.toBytes (px : Prefixes) : List Byte :=
  px.legacy.map LegacyPrefix.toByte ++ (px.rex.map fun r => [r.toByte]).getD []

/-- SIB and displacement bytes. -/
def MemOp.toBytes (m : MemOp) : List Byte :=
  (m.sib.map fun s => [s.toByte]).getD [] ++ m.disp.toBytes

/-- A memory form: prefixes, `0F AE`, ModR/M, SIB, displacement. -/
def encodeMem (px : Prefixes) (reg : BitVec 3) (m : MemOp) : List Byte :=
  px.toBytes ++ [0x0F#8, 0xAE#8, modrmByte m.mod reg m.rm] ++ m.toBytes

/-- A register form: prefixes, `0F AE`, ModR/M with mod = 11B. -/
def encodeReg (px : Prefixes) (reg rm : BitVec 3) : List Byte :=
  px.toBytes ++ [0x0F#8, 0xAE#8, modrmByte 3#2 reg rm]

/-- The bytes of an instruction in memory order (R150 to R159). -/
def encode : Instr → List Byte
  | .clflush px m => encodeMem px 7#3 m
  | .clflushopt px m => encodeMem px 7#3 m
  | .clwb px m => encodeMem px 6#3 m
  | .lfence px rm => encodeReg px 5#3 rm
  | .mfence px rm => encodeReg px 6#3 rm
  | .sfence px rm => encodeReg px 7#3 rm

/-! ## Table words -/

/-- The bytes of a table number of k bytes, the first byte in its highest bits (R165). -/
def tableBytes (w : Nat) : Nat → List Byte
  | 0 => []
  | k + 1 => BitVec.ofNat 8 (w >>> (8 * k)) :: tableBytes w k

/-- The bytes a table number stands for, in memory order. The number holds `0F AE ModRM` and not the
mandatory prefix (R165): 66H is put before the three bytes that only the CLWB row can match. The CLFLUSHOPT
row has CLFLUSH's number; that number is read as CLFLUSH (log 9). -/
def tableWordBytes (nbits w : Nat) : List Byte :=
  let bs := tableBytes w (nbits / 8)
  match bs with
  | [b0, b1, b2] =>
    if b0 = 0x0F#8 ∧ b1 = 0xAE#8 ∧ modOf b2 ≠ 3#2 ∧ regOf b2 = 6#3 then 0x66#8 :: bs else bs
  | _ => bs

/-- The mode decoding has right after reset: not 64-bit, D flag clear (R47, R157). -/
def resetEnv : DecodeEnv := ⟨false, false⟩

/-- What the decoder reads from a table number, every bit above it zero. -/
def decodeTableWord (nbits w : Nat) : Option Instr :=
  match decode resetEnv (tableWordBytes nbits w ++ List.replicate 15 0#8) with
  | .ok i _ => some i
  | _ => none

end Sys2Proof
end

