-- ==== Sys2Proof/Config.lean ====
section
/-! DEFINITION. The parameters of 93_implementation_defined.md section 3, as plain data, and the free values:
constants without a body, applied to a counter that every step advances, so that nothing can be proved of the
value they give (log 11). -/

namespace Sys2Proof

/-- A range of physical addresses with its memory type (R82, R86). -/
structure MemRange where
  base : Nat
  size : Nat
  type : MemType
deriving DecidableEq, Repr

/-- A range of physical addresses (R82). -/
structure AddrRange where
  base : Nat
  size : Nat
deriving DecidableEq, Repr

/-- One logical processor: its APIC ID, its core and its package (R8, R315, R316). -/
structure ProcCfg where
  apicId : W32
  core : Nat
  package : Nat
deriving DecidableEq, Repr

/-- One level of CPUID leaf 0BH or 1FH: level type encoding and right-shift count (R318). -/
structure TopoLevel where
  levelType : Byte
  shift : BitVec 5
deriving DecidableEq, Repr

/-- The CPUID signature of leaf 01H (R8, R37, R340). -/
structure Signature where
  family : BitVec 4
  model : BitVec 4
  stepping : BitVec 4
  extModel : BitVec 4
deriving DecidableEq, Repr

/-- The parameters of the model (R6 to R10), fixed for a run. What CPUID answers from them is the same on every logical
processor but for its APIC ID (R323, D12, log 23). -/
structure Config where
  /-- CPUID.01H:EDX[19] (R6). -/
  hasClfsh : Bool
  /-- CPUID.(EAX=7,ECX=0):EBX[23] (R6). -/
  hasClflushopt : Bool
  /-- CPUID.(EAX=7,ECX=0):EBX[24] (R6). -/
  hasClwb : Bool
  /-- CPUID.01H:EDX[26] (R6). -/
  hasSse2 : Bool
  /-- CPUID.01H:EDX[25] (R6). -/
  hasSse : Bool
  /-- LINE is 2 to this power (R7: a power of two, at least 1). -/
  lineLog2 : Nat
  /-- The logical processors; NPROC is their number (R8). -/
  procs : List ProcCfg
  /-- Family, model, stepping and extended model (R8, R37). -/
  signature : Signature
  /-- Whether the local APICs support x2APIC mode (R304). -/
  hasX2apic : Bool
  /-- The processor selected as BSP (R351). -/
  bspIndex : Nat
  /-- PA_BITS (R32). -/
  paBits : Nat
  /-- Canonical(la): bits 63 down to this number less 1 are all equal (R9, D13, log 2). -/
  canonicalBits : Nat
  /-- MemType: the first range that holds an address gives its type, WB elsewhere (R82, D17). -/
  memTypes : List MemRange
  /-- Physical ranges with no memory behind them (R82). -/
  unbacked : List AddrRange
  /-- CLWB_EXEC_ONLY_OK (R84, D31). -/
  clwbExecOnlyOk : Bool
  /-- FENCE_IGNORES_PREFIXES (R161). -/
  fenceIgnoresPrefixes : Bool
  /-- P6_ATOMIC_WITHIN_LINE (R79). -/
  p6AtomicWithinLine : Bool
  /-- MON_MIN is 2 to this power (R268). -/
  monMinLog2 : Nat
  /-- MON_MAX is MON_MIN times 2 to this power (R268: MON_MIN is at most MON_MAX). -/
  monSpanLog2 : Nat
  /-- MONITOR_AT_CPL3 (R267). -/
  monitorAtCpl3 : Bool
  /-- CR0_PG_NEEDS_JUMP (R256). -/
  cr0PgNeedsJump : Bool
  /-- Whether fast-string operation is enabled, on every processor alike (R10, R121, log 31). -/
  fastStrings : Bool
  /-- The bits of IA32_MISC_ENABLE that the processors of a core share; each has its own copy of the others
  (R29, R42, R313). -/
  miscEnableShared : W64
  /-- Whether the other MCA MSRs are shared by the processors of a core (R42). -/
  mcaShared : Bool
  /-- Whether the performance MSRs are shared by the processors of a core (R42). -/
  perfShared : Bool
  /-- CPUID.0H:EAX (R37). -/
  maxBasicLeaf : W32
  /-- Whether the vendor string is "GenuineIntel" (R37, R320). -/
  genuineIntel : Bool
  /-- CPUID.01H:ECX[3] (R37). -/
  hasMonitor : Bool
  /-- CPUID.01H:EDX[28] (R37, R317). -/
  hasHwMt : Bool
  /-- CPUID.01H:EBX[23:16] (R317). -/
  maxLpIdsPerPackage : Byte
  /-- CPUID.(EAX=4,ECX=0):EAX[31:26] + 1 (R317). -/
  maxCoreIdsPerPackageLess1 : BitVec 6
  /-- CPUID.(EAX=4,ECX=level):EAX[25:14], one entry per cache level (R37). -/
  cacheSharing : List (BitVec 12)
  /-- Whether leaf 0BH is supported (R37). -/
  hasLeaf0B : Bool
  /-- The levels leaf 0BH reports (R318). -/
  levels0B : List TopoLevel
  /-- The levels leaf 1FH reports (R318). -/
  levels1F : List TopoLevel
  /-- The level type numbers of module, tile and die (R318: not in the source; log 35). -/
  moduleType : Byte
  tileType : Byte
  dieType : Byte
  /-- The width of the package field of an APIC ID; the cluster field lies above it (R316, R321). -/
  packageWidth : Nat
deriving DecidableEq, Repr

/-- LINE (R7). -/
def Config.line (c : Config) : Nat := 2 ^ c.lineLog2

/-- MON_MIN and MON_MAX (R268). -/
def Config.monMin (c : Config) : Nat := 2 ^ c.monMinLog2
def Config.monMax (c : Config) : Nat := 2 ^ (c.monMinLog2 + c.monSpanLog2)

/-- A processor of the P6 family, whose APIC IDs have 4 bits (R8, R324; the signature is that of R340, row 1). -/
def Signature.isP6 (g : Signature) : Bool := g.family == 6#4 && g.extModel == 0#4 && decide (g.model.toNat ≤ 0x0D)

/-- The bits of an APIC ID: 32 with CPUID leaf 0BH, 4 on the P6 family, else 8 (R8, R315). -/
def Config.idMask (c : Config) : W32 :=
  if c.hasLeaf0B then 0xFFFFFFFF#32 else if c.signature.isP6 then 0xF#32 else 0xFF#32

/-- NPROC (R8). -/
def Config.nproc (c : Config) : Nat := c.procs.length

/-- The APIC ID of a processor (R8, R315). -/
def Config.apicIdOf (c : Config) (p : Nat) : W32 := ((c.procs[p]?).map (·.apicId)).getD 0#32 &&& c.idMask

/-- The local-APIC page (93_implementation_defined.md section 3, default of MemType). -/
def apicPage : MemRange := ⟨0xFEE00000, 0x1000, .uc⟩

/-- The defaults of 93_implementation_defined.md section 3, with two processors of one core (log 8). -/
def Config.default : Config where
  hasClfsh := true
  hasClflushopt := true
  hasClwb := true
  hasSse2 := true
  hasSse := true
  lineLog2 := 6
  procs := [⟨0, 0, 0⟩, ⟨1, 0, 0⟩]
  signature := ⟨6#4, 0xE#4, 0#4, 5#4⟩
  hasX2apic := true
  bspIndex := 0
  paBits := 36
  canonicalBits := 48
  memTypes := [apicPage]
  unbacked := []
  clwbExecOnlyOk := false
  fenceIgnoresPrefixes := false
  p6AtomicWithinLine := true
  monMinLog2 := 6
  monSpanLog2 := 0
  monitorAtCpl3 := false
  cr0PgNeedsJump := false
  fastStrings := false
  miscEnableShared := 0xFFFFFFFFFFFFFFFF#64
  mcaShared := false
  perfShared := true
  maxBasicLeaf := 0x1F
  genuineIntel := true
  hasMonitor := true
  hasHwMt := true
  maxLpIdsPerPackage := 2
  maxCoreIdsPerPackageLess1 := 0
  cacheSharing := [1]
  hasLeaf0B := true
  levels0B := [⟨1, 1⟩, ⟨2, 1⟩]
  levels1F := [⟨1, 1⟩, ⟨2, 1⟩]
  moduleType := 3
  tileType := 4
  dieType := 5
  packageWidth := 32

/-! ## Free values. The first argument is the state's counter, where no docstring says otherwise. -/

/-- The fault code of a page fault (R290, U14). -/
opaque Config.pageFaultCode : Nat → W32
/-- Whether CLWB leaves the line Invalid after its write-back (R192, I2). -/
opaque Config.clwbInvalidates : Nat → Bool
/-- Whether performing a flush or write-back of a monitored line triggers processor q's monitor (R206, U23). -/
opaque Config.flushTriggers : Nat → Nat → Bool
/-- Whether a processor's own store triggers its own monitor (R265). -/
opaque Config.ownStoreTriggers : Nat → Bool
/-- Whether a TLB invalidation, a control-register write or an MSR write by a processor triggers its monitor
(R266, I16). -/
opaque Config.tlbEventTriggers : Nat → Bool
/-- Which size between the smallest and the largest the monitor takes (R263). -/
opaque Config.monitorSize : Nat → Nat
/-- Whether MONITOR arms on a range that is not all write-back (R263, I19). -/
opaque Config.monitorArms : Nat → Bool
/-- Which of the old or new bytes at an address an instruction fetch returns (R125, I8). -/
opaque Config.fetchPick : Nat → Nat → Nat
/-- The order in which the bytes of a split access are taken (R79, I5). -/
opaque Config.splitPick : Nat → Nat → Nat
/-- Whether a walk that fails on a present entry sets its accessed flag (R291, D20). -/
opaque Config.failingWalkSetsA : Nat → Bool
/-- The physical address of an access between MOV CR0 and the jump on an old processor (R256, I24). -/
opaque Config.unsettledAddress : Nat → Nat → Nat
/-- Whether such an access takes a page fault instead (R256, I24). -/
opaque Config.unsettledFaults : Nat → Nat → Bool
/-- Byte i a LOCK-able instruction writes, from its source operand, its memory operand's old bytes, the general
registers and the flags (R243). -/
opaque Config.lockedByte : LockFn → List Byte → Vector W64 16 → W64 → Nat → Byte
/-- The general registers after a LOCK-able instruction, from the same (R243). -/
opaque Config.lockedRegs : LockFn → List Byte → Vector W64 16 → W64 → Vector W64 16
/-- The flags other than IF and the direction flag after a LOCK-able instruction, from the same (R243). -/
opaque Config.lockedFlags : LockFn → List Byte → Vector W64 16 → W64 → W64
/-- The flags other than IF and the direction flag after an addition, AND or OR of a register, from both operands and
the flags (R247, R358). -/
opaque Config.aluFlags : LockOp → W64 → W64 → W64 → W64
/-- The value an input from an I/O port brings (R244). -/
opaque Config.ioInput : Nat → W64
/-- A CPUID output field the source does not give: processor, leaf, sub-leaf, register 0 to 3 (R252). -/
opaque Config.cpuidField : Nat → W32 → W32 → Nat → W32
/-- One that all processors of a system report alike: leaf, sub-leaf, register 0 to 3 (R323). -/
opaque Config.cpuidSystemField : W32 → W32 → Nat → W32
/-- Where the code of a handler begins: the handler, IDTR base or SMBASE, CR3 and the bytes of memory in which
it is found (R308, R331). -/
opaque Config.handlerAddress : Handler → W64 → W64 → List (Nat × Byte) → W64
/-- Where IRET or RSM continues when delivery pushed nothing (R259, R295). -/
opaque Config.returnAddress : Nat → W64
/-- What a byte of the local APIC page reads as in an access that is to no register the source gives (R30). -/
opaque Config.apicByte : Nat → Nat → Byte
/-- What a local APIC register, by its address, holds after a store that reaches it otherwise than as one aligned
doubleword (R30). -/
opaque Config.apicAfter : Nat → Nat → W32
/-- Whether such a store to ICR_LOW sends a message (R305). -/
opaque Config.apicSends : Nat → Bool
/-- Whether LINT0 or LINT1 is masked after a store to the part of the local APIC page, or to an x2APIC MSR, that the
source does not give (R30, R44). -/
opaque Config.apicMasks : Nat → Nat → Bool
/-- Whether an interrupt through LINT0 or LINT1 of a processor is maskable, and its vector (R44, R309). -/
opaque Config.lintMaskable : Nat → Nat → Bool
opaque Config.lintVector : Nat → Nat → Byte
/-- The values a task switch loads, by number (R92). -/
opaque Config.taskWord : Nat → Nat → W64

end Sys2Proof
end

