-- ==== Sys2Proof/Machine/State.lean ====
section
/-! DEFINITION. The state of the machine as plain data: everything 10_state.md gives it, the reference model's
Coh, Mem, St and Q_p (20_memory.md R140, R144), the reset state, and the reasons a step can stop. -/

namespace Sys2Proof.Machine

open Sys2Proof

/-! ## Outcomes -/

/-- Why the machine stops with a fault. (An exception of an instruction is no such fault: it ends the run of its
logical processor and the machine goes on, R292.) -/
inductive Fault where
  /-- Raised by the step when the agenda or `cur` names a logical processor the system does not have. Safe. -/
  | noSuchProcessor
deriving DecidableEq, Repr

/-- Why the model gives an instruction no successor state. Each is safe: the model stops. The run of the processor
that meets one ends there and the system goes on (R378, D23). -/
inductive Refusal where
  /-- An instruction of the table whose meaning is not written yet. -/
  | notModelled (mnemonic : String)
  /-- Raised by the step for bytes outside the specification (R161, R5); the number is 0 for another opcode, 1 to 5
  for R161 (a) to (e). -/
  | outsideSpecification (which : Nat)
  /-- Raised by LFENCE, MFENCE and SFENCE with a REX, segment-override or 67H prefix when
  FENCE_IGNORES_PREFIXES is false (R161 (f)). -/
  | fencePrefix
  /-- Raised by fetch when an instruction's bytes pass the top of the address space (R22, D8). -/
  | fetchPastTop
  /-- Recorded when an instruction whose last byte is the topmost one has had its effect and pc moves past it: where
  it goes on is not given (R22, U17). -/
  | pcWraps
  /-- Raised by fetch when an instruction's bytes pass the limit of the code segment (D8). -/
  | fetchPastSegmentLimit
  /-- Raised by fetch when an instruction's bytes have no translation: an instruction-fetch fault is outside the
  source (R163). -/
  | fetchFault
  /-- Raised by fetch at an address with no memory behind it or of a device: the source gives no contents (R82). -/
  | fetchUnbacked
  /-- Raised by an access to WC memory (R149). -/
  | wcMemory
  /-- Raised by the non-temporal store step (R149). -/
  | nonTemporalStore
  /-- Raised by the string steps with fast-string operation enabled (R149). -/
  | fastString
  /-- Raised by a load, store or locked step at an address with no memory behind it: the source gives the case of
  a flush alone (R82, log 34). -/
  | unbackedAddress
  /-- Raised by a data access or an instruction fetch at a physical address of PA_BITS bits or more: the spec
  gives the machine no such address (R32, log 30). -/
  | outsidePhysicalSpace
  /-- Raised when a message is delivered whose ICR fields the source does not give (R305). -/
  | ipiModeNotGiven
deriving DecidableEq, Repr

/-! ## Registers -/

/-- A segment register as the abstract record of R24, with the D flag R157 reads. -/
structure SegReg where
  selector : W16
  base : W64
  limit : W32
  readable : Bool
  executable : Bool
  present : Bool
  usable : Bool
  dFlag : Bool
deriving DecidableEq, Repr

/-- The six segment registers (R24). -/
structure SegRegs where
  cs : SegReg
  ds : SegReg
  ss : SegReg
  es : SegReg
  fs : SegReg
  gs : SegReg
deriving DecidableEq, Repr

/-- EFLAGS (R23): IF, the direction flag of R246, and the rest, whose positions are not in the source. -/
structure Eflags where
  ifFlag : Bool
  dirFlag : Bool
  rest : W64
deriving DecidableEq, Repr

/-- The x87 FPU registers (R25). -/
structure Fpu where
  st : Vector (BitVec 80) 8
  sw : W16
  cw : W16
  tw : W16
  dp : W64
  ip : W64
deriving DecidableEq, Repr

/-- CR0: PG, CD and the rest (R26). -/
structure Cr0 where
  pg : Bool
  cd : Bool
  rest : W64
deriving DecidableEq, Repr

/-- CR4: MCE and the rest (R26). -/
structure Cr4 where
  mce : Bool
  rest : W64
deriving DecidableEq, Repr

/-- GDTR, LDTR, IDTR or the task register (R27). -/
structure TableReg where
  selector : W16
  base : W64
  limit : W32
deriving DecidableEq, Repr

/-- The debug registers (R28). -/
structure DebugRegs where
  dr0 : W64
  dr1 : W64
  dr2 : W64
  dr3 : W64
  dr6 : W64
  dr7 : W64
deriving DecidableEq, Repr

/-- The local APIC registers the source gives (R30), by the names of its boot example. -/
structure Apic where
  id : W32
  svr : W32
  icrLow : W32
  lvt3 : W32
deriving DecidableEq, Repr

/-- The local APIC registers by name (R30). -/
inductive ApicReg where
  | id | svr | icrLow | lvt3
deriving DecidableEq, Repr

/-- The model-specific registers of R29 by name. Of the MCA, MTRR, thermal and performance registers and the
last-branch-record stack there is one for every number, and there is one time stamp counter, since the source does not
say how many there are (N38, log 24, log 40). -/
inductive Msr where
  | apicBase | miscEnable | biosSignId | tscDeadline
  /-- An x2APIC MSR, by its offset from 802H (indices 802H to 83FH). -/
  | x2apic (offset : Fin 62)
  | mcgStatus | mcgCap
  | mca (n : Nat)
  | pat
  | mtrr (n : Nat)
  | clockModulation
  | thermal (n : Nat)
  | timeStamp
  | debugCtl
  /-- A word of the last-branch-record stack, which Proc.lbr holds (log 40). -/
  | lbr (n : Nat)
  | perf (n : Nat)
  | monitorFilterLineSize
  | efer
deriving DecidableEq, Repr

/-- Whose a copy of an MSR is: a logical processor's, or that of a core of a package (R40 to R43). -/
inductive MsrPlace where
  | own (p : Nat)
  | core (package core : Nat)
deriving DecidableEq, Repr

/-- A copy of an MSR. -/
structure MsrKey where
  msr : Msr
  place : MsrPlace
deriving DecidableEq, Repr

/-- A segment or TSS descriptor as plain data, with the flags the source names (R85, R92, log 36). -/
structure Descriptor where
  selector : W16
  seg : SegReg
  /-- Whether it describes a TSS. -/
  tss : Bool
  accessed : Bool
  /-- The B flag of a TSS descriptor. -/
  busy : Bool
deriving DecidableEq, Repr

/-! ## Hidden state -/

/-- The state of a cache line that is listed in St; a line that is not listed is Invalid (R140). -/
inductive LineState where
  | invalid | clean | modified
deriving DecidableEq, Repr

/-- An entry of Q_p (R144). -/
inductive QEntry where
  /-- A write of the n low bytes of v at physical address pa. -/
  | w (pa : Nat) (n : Nat) (v : W64)
  /-- A CLFLUSH of line l. -/
  | cf (l : Nat)
  /-- A CLFLUSHOPT of line l. -/
  | co (l : Nat)
  /-- A CLWB of line l. -/
  | cw (l : Nat)
  /-- An SFENCE marker. -/
  | sf
deriving DecidableEq, Repr

/-- The monitor hardware (R36, R264): a physical range, or triggered. -/
inductive Monitor where
  | triggered
  | armed (lo size : Nat)
deriving DecidableEq, Repr

/-- The states StopGrant is entered from and left to (R335). -/
inductive Resumable where
  | running | halted | mwaitWait
deriving DecidableEq, Repr

/-- The activity states of R31. -/
inductive Activity where
  | running | halted | waitForSipi | mwaitWait | shutdown
  | stopGrant (prev : Resumable)
deriving DecidableEq, Repr

/-- Where a processor stands in the hardware selection by BIPI and FIPI (R352). -/
inductive BootPhase where
  /-- The selection is over, or was not played. -/
  | done
  /-- No BIPI has been received yet. -/
  | arbitrating
  /-- It has selected itself as BSP and awaits its FIPI. -/
  | awaitingFipi
deriving DecidableEq, Repr

/-- The exceptions of R280, and the one of R267 whose identity the source does not give. -/
inductive ExcKind where
  | ud | gp | ss | pf | mc | unidentified
deriving DecidableEq, Repr

/-- The outcome Fault(p, kind, code, pc) that ends the run of a logical processor (R292, D10). -/
structure FaultRecord where
  kind : ExcKind
  code : Option W32
  pc : W64
deriving DecidableEq, Repr

/-! ## Abstract steps (42_referenced_instructions.md R240) -/

/-- The access widths of R72. -/
inductive Width where
  | w1 | w2 | w4 | w8
deriving DecidableEq, Repr

/-- A linear address: a constant, plus a register where one is named. -/
structure AddrExpr where
  base : Option Gpr
  disp : W64
deriving DecidableEq, Repr

/-- The conditions of the programs of 95_test_vectors.md section 3 (R247). -/
inductive Cond where
  | regZero (r : Gpr)
  | regBelow (r : Gpr) (v : W64)
deriving DecidableEq, Repr

/-- The abstract steps of R240 and of 42_referenced_instructions.md. -/
inductive AbsStep where
  /-- `mov r, [a]` (R241). -/
  | load (r : Gpr) (a : AddrExpr) (n : Width)
  /-- `mov [a], v` (R241). -/
  | store (a : AddrExpr) (n : Width) (v : Src)
  /-- MOV to a register (R241). -/
  | movReg (r : Gpr) (v : Src)
  /-- The addition of program P3. -/
  | addReg (r : Gpr) (v : Src)
  /-- AND of a register, as the boot code uses it (R358). -/
  | andReg (r : Gpr) (v : Src)
  /-- OR of a register, as the boot code uses it (R358). -/
  | orReg (r : Gpr) (v : Src)
  /-- `xchg [a], r` (R242). -/
  | xchg (a : AddrExpr) (r : Gpr) (n : Width)
  /-- A LOCK-prefixed read-modify-write f of the R93 list on n bytes of memory, n of any size (R95, R243). -/
  | locked (f : LockFn) (a : AddrExpr) (n : Nat)
  /-- LOCK on any other instruction, or with a register destination (R243). -/
  | lockInvalid
  /-- Input from a port into a register (R244). -/
  | ioIn (port : W16) (r : Gpr)
  /-- Output to a port (R244). -/
  | ioOut (port : W16) (v : Src)
  /-- The string form of input, one element or with REP (R244, log 39). -/
  | ins (n : Width) (rep : Bool)
  /-- The string form of output (R244, log 39). -/
  | outs (n : Width) (rep : Bool)
  /-- A jump (R247). -/
  | jump (t : W64)
  /-- A conditional jump (95_test_vectors.md section 3). -/
  | jumpIf (c : Cond) (t : W64)
  | hlt
  | pause
  | cli
  | sti
  | monitor (a : AddrExpr)
  | mwait
  | cpuid
  | wbinvd
  | invd
  | invlpg (a : AddrExpr)
  | invept
  | invvpid
  | lgdt (v : TableReg)
  | lidt (v : TableReg)
  | lldt (v : TableReg)
  | ltr (v : TableReg)
  | movCr0 (v : Cr0)
  | movCr3 (v : Src)
  | movCr4 (v : Cr4)
  | movCr8 (v : Src)
  | movDr (n : Fin 6) (v : Src)
  | wrmsr (m : Msr) (v : Src)
  | rdmsr (m : Msr) (r : Gpr)
  | iret
  | rsm
  /-- MOV to a segment register: its descriptor is loaded (R92 c). -/
  | movSeg (r : Seg) (sel : W16)
  /-- A switch to the task of a TSS descriptor (R92 b). -/
  | taskSwitch (sel : W16)
  /-- One STOS of an element of the given width (R246). -/
  | stos (n : Width)
  /-- One MOVS of an element of the given width (R246). -/
  | movs (n : Width)
  /-- One REP STOS of elements of the given width (R246). -/
  | repStos (n : Width)
  /-- One REP MOVS of elements of the given width (R246). -/
  | repMovs (n : Width)
  /-- A non-temporal store (R245). -/
  | ntStore
deriving DecidableEq, Repr

/-- An abstract step placed at a linear address, with the length its encoding would have (R240). -/
structure ProgramEntry where
  pc : W64
  length : Nat
  step : AbsStep
deriving DecidableEq, Repr

/-! ## A logical processor -/

/-- The state of one logical processor (R20 to R31). -/
structure Proc where
  gpr : Vector W64 16
  pc : W64
  eflags : Eflags
  segs : SegRegs
  fpu : Fpu
  mmx : Vector W64 8
  xmm : Vector (BitVec 128) 16
  mxcsr : W32
  cr0 : Cr0
  /-- The PG setting in force for translation (R256). -/
  pgInForce : Bool
  cr3 : W64
  cr4 : Cr4
  cr8 : W64
  gdtr : TableReg
  ldtr : TableReg
  idtr : TableReg
  tr : TableReg
  dr : DebugRegs
  /-- The last-branch-record stack (R28, R29); a word that is not listed is 0 (log 40). -/
  lbr : List W64
  mode : Mode
  cpl : BitVec 2
  /-- The BSP flag of IA32_APIC_BASE (R29). -/
  bspFlag : Bool
  activity : Activity
  monitor : Monitor
  /-- Q_p (R144). -/
  queue : List QEntry
  apic : Apic
  /-- Whether the local APIC is in x2APIC mode (R30, R304). -/
  x2apic : Bool
  /-- Whether LINT0 and LINT1 are masked in the local vector table (R44, R309). -/
  lint0Masked : Bool
  lint1Masked : Bool
  smbase : W32
  /-- Overwritten bytes that this processor's fetch may still return (R125). -/
  stale : List Host.Cell
  /-- The bytes, by position, that a split load has read so far (R79). -/
  split : List (Nat × Byte)
  /-- A string input has sent its store to Q_p and is complete once Q_p is empty again (R146, R244, log 39). -/
  ioStore : Bool
  /-- The instruction pointers delivery pushed on the stack, the newest first (R292). -/
  handlers : List W64
  /-- How the processor's run ended, if it did (R292). -/
  ended : Option FaultRecord
  /-- What the processor met that the model refuses, which ended its run (R378, D23). -/
  refusal : Option Refusal
  /-- It waits to serialize every processor of its core: the others of the core are held (R147, R251, log 16). -/
  serializing : Bool
  /-- Its place in the hardware selection (R352). -/
  boot : BootPhase
  program : List ProgramEntry
deriving DecidableEq, Repr

/-! ## The shared state -/

/-- One page of a translation table as plain data: Translate as the oracle of R85 answers it, with the accesses it
permits at each CPL, bit k for CPL k (log 1, log 15). -/
structure PageMap where
  la : Nat
  size : Nat
  pa : Nat
  present : Bool
  reads : BitVec 4
  writes : BitVec 4
  fetches : BitVec 4
  global : Bool
  accessed : Bool
  dirty : Bool
deriving DecidableEq, Repr

/-- The translation table a CR3 value selects (R26). -/
structure AddrSpace where
  cr3 : W64
  pages : List PageMap
deriving DecidableEq, Repr

/-- A cached translation, tagged with the processor that initiated it (R38). -/
structure TlbEntry where
  owner : Nat
  page : PageMap
deriving DecidableEq, Repr

/-- What an interprocessor message does at its destination (R305, R306). -/
inductive IpiKind where
  | init
  | sipi (vector : Byte)
  | fixed (vector : Byte)
  | nmi
  | smi
  /-- A Boot IPI: the arbitration of R352. -/
  | bipi (vector : Byte)
  /-- The Final Boot IPI of R352. -/
  | fipi (vector : Byte)
  /-- A message whose ICR fields the source does not give. -/
  | other (icr : W32)
deriving DecidableEq, Repr

/-- A message sent and not yet delivered; without a destination where the source gives none (R305). -/
structure Ipi where
  dest : Option Nat
  kind : IpiKind
deriving DecidableEq, Repr

/-- The pins of one package (R44, R309). -/
structure Pins where
  stpclk : Bool
  a20m : Bool
  ierr : Bool
  lint0 : Bool
  lint1 : Bool
deriving DecidableEq, Repr

/-- One I/O access, in programmed order (R244). -/
structure IoAccess where
  proc : Nat
  port : W16
  output : Option W64
deriving DecidableEq, Repr

/-- What can happen next: the moves of the processors, of the memory system, of the caches by themselves
(R141), of the TLBs (R38), and of the environment (R44). -/
inductive Event where
  /-- Processor p executes its next instruction (R144). -/
  | exec (p : Nat)
  /-- The memory system performs entry i of Q_p (R145). -/
  | perform (p i : Nat)
  /-- The cache fills the line of an address (R141 a). -/
  | fill (pa : Nat)
  /-- The cache evicts a clean line (R141 b). -/
  | evict (pa : Nat)
  /-- The cache writes a line back and, if asked, drops it (R141 c). -/
  | writeBack (pa : Nat) (drop : Bool)
  /-- A translation of processor p is cached (R38). -/
  | tlbFill (p : Nat) (la : W64)
  /-- Processor p's cached translations of a linear address are dropped (R38). -/
  | tlbDrop (p : Nat) (la : W64)
  /-- The oldest message that can go to processor p is delivered (R305). -/
  | deliver (p : Nat)
  /-- A maskable interrupt with a vector arrives at processor p (R331, R92 e). -/
  | interrupt (p : Nat) (vector : Byte)
  /-- An NMI arrives at processor p (R331). -/
  | nmi (p : Nat)
  /-- An SMI arrives at processor p (R331). -/
  | smi (p : Nat)
  /-- INIT is asserted at processor p (R332). -/
  | init (p : Nat)
  /-- Processor p leaves the MWAIT state for another reason (R266). -/
  | wake (p : Nat)
  /-- STPCLK# of a package is asserted or deasserted (R335). -/
  | stpclk (package : Nat) (on : Bool)
  /-- LINT0 or LINT1 of a package is asserted or deasserted (R44, R309). -/
  | lint (package : Nat) (one on : Bool)
  /-- BINIT or MCERR is signalled (R44, R266). -/
  | busSignal
  /-- A20M# of a package is asserted or deasserted (R309). -/
  | a20m (package : Nat) (on : Bool)
  /-- A fatal machine-check error is reported in a package (R297). -/
  | machineCheck (package : Nat)
  /-- An APIC-bus error during the MP protocol is detected by processor p (R334). -/
  | apicBusError (p : Nat)
  /-- RESET of the whole system, the hardware selection over (R44, R350, R351). -/
  | reset
  /-- RESET of the whole system, the selection by BIPI and FIPI still to come where the processors use it (R352). -/
  | resetArbitrating
  /-- Nothing happens. -/
  | idle
deriving DecidableEq, Repr

/-- The state of the system (R20). -/
structure State where
  /-- The parameters (R6 to R10); no step changes them. -/
  cfg : Config
  procs : List Proc
  /-- Coh (R140). -/
  coh : List Host.Cell
  /-- Mem (R140). -/
  mem : List Host.Cell
  /-- St (R140): the lines that are not Invalid. -/
  lines : List (Nat × LineState)
  tables : List AddrSpace
  /-- The segment and TSS descriptors (R85, R92, log 36). -/
  descriptors : List Descriptor
  tlb : List TlbEntry
  msrs : List (MsrKey × W64)
  /-- The holder of the bus lock (R39). -/
  busLock : Option Nat
  ipis : List Ipi
  /-- The pins, by package. -/
  pins : List Pins
  ioTrace : List IoAccess
  /-- The model's own: the moves chosen for the next steps (log 6). -/
  agenda : List Event
  /-- The model's own: the position of the fair rotation (log 6). -/
  turn : Nat
  /-- The model's own: the counter the free values are applied to (log 11). -/
  tick : Nat
  /-- The model's own: the logical processor that executes (log 6). -/
  cur : Nat
deriving DecidableEq, Repr

/-! ## Reset (70_reset_and_hazards.md R350 to R354, 10_state.md R47) -/

/-- The reset vector (R350). -/
def resetVector : W64 := 0xFFFFFFF0#64

/-- A real-address mode data segment: the family's values at reset (log 5). -/
def SegReg.realData : SegReg := ⟨0#16, 0#64, 0xFFFF#32, true, false, true, true, false⟩

/-- CS at reset: the family's values, under which pc = FFFFFFF0H lies in the segment (log 5). -/
def SegReg.resetCode : SegReg := ⟨0xF000#16, 0xFFFF0000#64, 0xFFFF#32, true, true, true, true, false⟩

/-- A descriptor-table register at reset: the family's values (log 5). -/
def TableReg.atReset : TableReg := ⟨0#16, 0#64, 0xFFFF#32⟩

/-- A processor right after RESET and the hardware selection of the BSP (R47, R330). Its APIC_ID register holds the low
8 bits of an ID (R30, R315; of a wider one log 5). -/
def Proc.atReset (id : W32) (bsp : Bool) : Proc where
  gpr := Vector.replicate 16 0#64
  pc := resetVector
  eflags := ⟨false, false, 0#64⟩
  segs := ⟨SegReg.resetCode, SegReg.realData, SegReg.realData, SegReg.realData, SegReg.realData, SegReg.realData⟩
  fpu := ⟨Vector.replicate 8 0#80, 0#16, 0x0040#16, 0x5555#16, 0#64, 0#64⟩
  mmx := Vector.replicate 8 0#64
  xmm := Vector.replicate 16 0#128
  mxcsr := 0x1F80#32
  cr0 := ⟨false, true, 0#64⟩
  pgInForce := false
  cr3 := 0#64
  cr4 := ⟨false, 0#64⟩
  cr8 := 0#64
  gdtr := TableReg.atReset
  ldtr := TableReg.atReset
  idtr := TableReg.atReset
  tr := TableReg.atReset
  dr := ⟨0#64, 0#64, 0#64, 0#64, 0xFFFF0FF0#64, 0x400#64⟩
  lbr := []
  mode := .realAddress
  cpl := 0#2
  bspFlag := bsp
  activity := if bsp then .running else .waitForSipi
  monitor := .triggered
  queue := []
  apic := ⟨id <<< 24, 0#32, 0#32, 0#32⟩
  x2apic := false
  lint0Masked := true
  lint1Masked := true
  smbase := 0x30000#32
  stale := []
  split := []
  ioStore := false
  handlers := []
  ended := none
  refusal := none
  serializing := false
  boot := .done
  program := []

/-- The processors at reset: the one at `bspIndex` is the BSP (R351). -/
def procsAtReset (cfg : Config) : List Proc :=
  cfg.procs.mapIdx fun p _ => Proc.atReset (cfg.apicIdOf p) (p == cfg.bspIndex)

/-- Deasserted pins, one set for each package number in use. -/
def pinsAtReset (cfg : Config) : List Pins :=
  List.replicate ((cfg.procs.map (·.package)).foldl max 0 + 1) ⟨false, false, false, false, false⟩

/-- The machine right after reset with given parameters (R354). -/
def State.resetWith (cfg : Config) : State where
  cfg := cfg
  procs := procsAtReset cfg
  coh := []
  mem := []
  lines := []
  tables := []
  descriptors := []
  tlb := []
  msrs := []
  busLock := none
  ipis := []
  pins := pinsAtReset cfg
  ioTrace := []
  agenda := []
  turn := cfg.bspIndex
  tick := 0
  cur := cfg.bspIndex

/-- The machine right after reset, with the default parameters (log 8). -/
def State.reset : State := State.resetWith Config.default

end Sys2Proof.Machine
end

