-- ==== Sys2Proof/Machine/Flags.lean ====
section
/-! DEFINITION. Flags. None of the six instructions writes a flag (R201, R223, D11); CLI and STI write IF
(R262), and the LOCK list leaves flag results the source does not give (R243). -/

namespace Sys2Proof.Machine

open Sys2Proof

/-- CLI: IF <- 0 (R262). -/
def clearIf (f : Eflags) : Eflags := { f with ifFlag := false }

/-- STI: IF <- 1 (R262). -/
def setIf (f : Eflags) : Eflags := { f with ifFlag := true }

/-- The flags after an instruction of the LOCK list: IF and the direction flag stay, the others are a free function
of the old bytes, the registers and the flags (R243). -/
def lockedFlags (g : LockFn) (old : List Byte) (gpr : Vector W64 16) (f : Eflags) : Eflags :=
  { f with rest := Config.lockedFlags g old gpr f.rest }

/-- The flags after an addition, AND or OR of a register: IF and the direction flag stay, the others are a free
function of both operands and the flags (R247, R358, log 22). -/
def aluFlags (op : LockOp) (a b : W64) (f : Eflags) : Eflags := { f with rest := Config.aluFlags op a b f.rest }

end Sys2Proof.Machine
end

