-- ==== Sys2Proof/Machine/Ops.lean ====
section
/-! DEFINITION. The named operations over memory, lines, registers, MSRs and queues, the taking of an exception
and the return from a handler. -/

namespace Sys2Proof.Machine

open Sys2Proof

/-! ## Maps in canonical form: addresses strictly rising, no entry equal to what an unlisted address reads as -/

/-- What a map holds at an address; an unlisted address reads as d. -/
def mget {α : Type} (d : α) : List (Nat × α) → Nat → α
  | [], _ => d
  | (k, v) :: t, a => if k = a then v else mget d t a

/-- An entry, unless its value is what an unlisted address reads as. -/
def mentry {α : Type} [DecidableEq α] (d : α) (a : Nat) (v : α) : List (Nat × α) :=
  if v = d then [] else [(a, v)]

/-- A map with the value at one address changed. -/
def mset {α : Type} [DecidableEq α] (d : α) : List (Nat × α) → Nat → α → List (Nat × α)
  | [], a, v => mentry d a v
  | (k, w) :: t, a, v =>
    if a < k then mentry d a v ++ (k, w) :: t
    else if a = k then mentry d a v ++ t
    else (k, w) :: mset d t a v

/-- The canonical form, for keys of at least lo. -/
def mwfFrom {α : Type} [DecidableEq α] (d : α) : Nat → List (Nat × α) → Bool
  | _, [] => true
  | lo, (k, v) :: t => decide (lo ≤ k) && decide (v ≠ d) && mwfFrom d (k + 1) t

/-- What an unlisted byte of memory reads as: 00H (log 3). -/
def unlistedByte : Byte := 0#8

/-- Memory.wf: the canonical form of a byte memory. -/
def Memory.wf (m : List Host.Cell) : Bool := mwfFrom unlistedByte 0 m

/-- The canonical form of St: no line is listed as Invalid. -/
def linesWf (m : List (Nat × LineState)) : Bool := mwfFrom LineState.invalid 0 m

/-- Reading one byte of a memory. -/
def readByte (m : List Host.Cell) (a : Nat) : Byte := mget unlistedByte m a

/-- Writing one byte of a memory. -/
def writeByte (m : List Host.Cell) (a : Nat) (v : Byte) : List Host.Cell := mset unlistedByte m a v

/-- The n bytes of src from address a on, copied to dst. -/
def copyBytes (src dst : List Host.Cell) (a : Nat) : Nat → List Host.Cell
  | 0 => dst
  | n + 1 => copyBytes src (writeByte dst a (readByte src a)) (a + 1) n

/-! ## Values and bytes: little-endian (R70, D1) -/

/-- Byte i of a value. -/
def byteOf (v : W64) (i : Nat) : Byte := v.extractLsb' (8 * i) 8

/-- The value of bytes, the first the least significant. -/
def valueOf : List Byte → W64
  | [] => 0#64
  | b :: t => b.setWidth 64 ||| (valueOf t <<< 8)

/-- The bytes of a width (R72). -/
def Width.bytes : Width → Nat
  | .w1 => 1
  | .w2 => 2
  | .w4 => 4
  | .w8 => 8

/-! ## Lines and memory types -/

/-- LineOf: the aligned line that holds a physical address (R140). -/
def lineOf (c : Config) (pa : Nat) : Nat := pa / c.line * c.line

/-- Whether an address lies in a range. -/
def inRange (base size a : Nat) : Bool := decide (base ≤ a) && decide (a < base + size)

/-- Whether an address lies in the local APIC page (R30). -/
def inApicPage (a : Nat) : Bool := inRange apicPage.base apicPage.size a

/-- The memory type of a physical address (R82, R86); the local APIC page is UC (R30). -/
def memType (c : Config) (a : Nat) : MemType :=
  if inApicPage a then .uc
  else match c.memTypes.find? (fun r => inRange r.base r.size a) with
    | some r => r.type
    | none => .wb

/-- Whether the platform has memory at an address (R82). -/
def isBacked (c : Config) (a : Nat) : Bool := !c.unbacked.any (fun r => inRange r.base r.size a)

/-- St of a line (R140). -/
def State.lineState (s : State) (l : Nat) : LineState := mget .invalid s.lines l

/-- St changed at one line. -/
def State.setLine (s : State) (l : Nat) (x : LineState) : State :=
  { s with lines := mset .invalid s.lines l x }

/-- WriteBackLine (R140). -/
def writeBackLine (s : State) (l : Nat) : State :=
  if s.lineState l = .modified then
    { s with mem := copyBytes s.coh s.mem l s.cfg.line, lines := mset .invalid s.lines l .clean }
  else s

/-- FlushLine (R140). -/
def flushLine (s : State) (l : Nat) : State := (writeBackLine s l).setLine l .invalid

/-- One step of INVD on a line: modified data is lost (R254). -/
def dropLine (s : State) (l : Nat) : State :=
  if s.lineState l = .modified then
    { s with coh := copyBytes s.mem s.coh l s.cfg.line, lines := mset .invalid s.lines l .invalid }
  else s.setLine l .invalid

/-- Every listed line, for WBINVD and INVD (R253, R254). -/
def State.listedLines (s : State) : List Nat := s.lines.map (·.1)

/-! ## Processors and registers -/

/-- The state with processor p's state replaced. -/
def State.setProc (s : State) (p : Nat) (x : Proc) : State := { s with procs := s.procs.set p x }

/-- The number of a general register. -/
def Gpr.idx : Gpr → Fin 16
  | .rax => 0 | .rcx => 1 | .rdx => 2 | .rbx => 3 | .rsp => 4 | .rbp => 5 | .rsi => 6 | .rdi => 7
  | .r8 => 8 | .r9 => 9 | .r10 => 10 | .r11 => 11 | .r12 => 12 | .r13 => 13 | .r14 => 14 | .r15 => 15

/-- The general register of a 4-bit number (R157, R159). -/
def gprOf (n : BitVec 4) : Gpr :=
  if n = 0#4 then .rax else if n = 1#4 then .rcx else if n = 2#4 then .rdx else if n = 3#4 then .rbx
  else if n = 4#4 then .rsp else if n = 5#4 then .rbp else if n = 6#4 then .rsi else if n = 7#4 then .rdi
  else if n = 8#4 then .r8 else if n = 9#4 then .r9 else if n = 10#4 then .r10 else if n = 11#4 then .r11
  else if n = 12#4 then .r12 else if n = 13#4 then .r13 else if n = 14#4 then .r14 else .r15

/-- x[r] (R13). -/
def Proc.reg (x : Proc) (r : Gpr) : W64 := x.gpr[(Gpr.idx r).val]

/-- x[r] <- v (R13). -/
def Proc.setReg (x : Proc) (r : Gpr) (v : W64) : Proc := { x with gpr := x.gpr.set (Gpr.idx r) v }

/-- A segment register by name (R24). -/
def SegRegs.get (s : SegRegs) : Seg → SegReg
  | .cs => s.cs | .ds => s.ds | .ss => s.ss | .es => s.es | .fs => s.fs | .gs => s.gs

/-- A value as a register of the processor's mode holds it: 64 bits of RIP and the general registers in 64-bit mode,
32 bits of EIP and these outside it (R21, R22; the upper half reads and is left as zero there, log 22). -/
def Proc.sized (x : Proc) (v : W64) : W64 := if x.mode = .mode64 then v else v &&& 0xFFFFFFFF#64

/-- pc <- v, of the width of EIP or RIP (R22). -/
def Proc.goTo (x : Proc) (v : W64) : Proc := { x with pc := x.sized v }

/-- pc <- pc + n (R22, D8). -/
def Proc.advance (x : Proc) (n : Nat) : Proc := x.goTo (x.pc + BitVec.ofNat 64 n)

/-- An entry appended to Q_p (R144). -/
def Proc.enqueue (x : Proc) (e : QEntry) : Proc := { x with queue := x.queue ++ [e] }

/-- The decoding environment of a processor (R157): the D flag counts outside 64-bit, real-address and
virtual-8086 mode. -/
def Proc.decodeEnv (x : Proc) : DecodeEnv := ⟨x.mode == .mode64,
  (x.mode == .protectedMode || x.mode == .compatibility) && x.segs.cs.dFlag⟩

/-- The state with processor p's state changed by f. -/
def State.updProc (s : State) (p : Nat) (f : Proc → Proc) : State :=
  { s with procs := s.procs.modify p f }

/-- The outcomes of a step of this machine. -/
abbrev Out := Host.Outcome State Fault Refusal

/-- The core of a processor: its package and its number there (R20, R41, R43). -/
def coreOf (c : Config) (p : Nat) : Nat × Nat := ((c.procs[p]?).map fun e => (e.package, e.core)).getD (0, 0)

/-- The package of a processor (R20, R309). -/
def packageOf (c : Config) (p : Nat) : Nat := ((c.procs[p]?).map (·.package)).getD 0

/-- The OR of the CD flags of a core (R255). -/
def coreCd (s : State) (core : Nat × Nat) : Bool :=
  (s.procs.mapIdx fun p x => coreOf s.cfg p == core && x.cr0.cd).any id

/-- Some core's cache is enabled (R255, D17). -/
def cacheEnabled (s : State) : Bool := (List.range s.cfg.nproc).any fun p => !coreCd s (coreOf s.cfg p)

/-- STPCLK# is asserted at processor p's package (R309, R335). -/
def stopped (s : State) (p : Nat) : Bool := ((s.pins[packageOf s.cfg p]?).map (·.stpclk)).getD false

/-! ## Registers of 32 and of 64 bits -/

/-- A general register as an instruction reads it (R21), R8 to R15 outside 64-bit mode too (log 22). -/
def Proc.get (x : Proc) (r : Gpr) : W64 := x.sized (x.reg r)

/-- A general register as an instruction writes it (R21), R8 to R15 outside 64-bit mode too (log 22). -/
def Proc.put (x : Proc) (r : Gpr) (v : W64) : Proc := x.setReg r (x.sized v)

/-! ## Model-specific registers (R29, R40 to R43) -/

/-- The address of an MSR, where the source gives one (R29). -/
def Msr.address : Msr → Option Nat
  | .miscEnable => some 0x1A0
  | .biosSignId => some 0x8B
  | .tscDeadline => some 0x6E0
  | .x2apic k => some (0x802 + k.val)
  | .apicBase | .mcgStatus | .mcgCap | .mca _ | .pat | .mtrr _ | .clockModulation | .thermal _ | .timeStamp
  | .debugCtl | .lbr _ | .perf _ | .monitorFilterLineSize | .efer => none

/-- The bits of an MSR that the processors of a core share (R41, R42, R313); each has its own copy of those of which
R29 does not say it, IA32_TSC_DEADLINE and IA32_MONITOR_FILTER_LINE_SIZE (log 24). -/
def Msr.sharedBits (c : Config) : Msr → W64
  | .miscEnable => c.miscEnableShared
  | .mca _ => if c.mcaShared then BitVec.allOnes 64 else 0#64
  | .perf _ => if c.perfShared then BitVec.allOnes 64 else 0#64
  | .mtrr _ => BitVec.allOnes 64
  | .apicBase | .biosSignId | .tscDeadline | .x2apic _ | .mcgStatus | .mcgCap | .pat | .clockModulation | .thermal _
  | .timeStamp | .debugCtl | .lbr _ | .monitorFilterLineSize | .efer => 0#64

/-- The core's copy and the processor's own copy. -/
def coreKey (c : Config) (p : Nat) (m : Msr) : MsrKey := ⟨m, .core (coreOf c p).1 (coreOf c p).2⟩
def ownKey (p : Nat) (m : Msr) : MsrKey := ⟨m, .own p⟩

/-- An MSR that nothing has written: the family's values, else zero (log 4, log 5). -/
def Msr.resetValue : Msr → W64
  | .pat => 0x0007040600070406#64
  | .apicBase => 0xFEE00800#64
  | _ => 0#64

/-- A stored copy of an MSR. -/
def copyOf (s : State) (k : MsrKey) : W64 := ((s.msrs.find? fun e => e.1 == k).map (·.2)).getD k.msr.resetValue

/-- What is stored of an MSR for processor p: the shared bits from its core's copy, the others from its own. -/
def storedMsr (s : State) (p : Nat) (m : Msr) : W64 :=
  (copyOf s (coreKey s.cfg p m) &&& m.sharedBits s.cfg) ||| (copyOf s (ownKey p m) &&& ~~~(m.sharedBits s.cfg))

/-- A value put under a key, in place where the key is there. -/
def putKey : List (MsrKey × W64) → MsrKey → W64 → List (MsrKey × W64)
  | [], k, v => [(k, v)]
  | (k', v') :: t, k, v => if k' = k then (k, v) :: t else (k', v') :: putKey t k v

/-- A value stored in an MSR, in the core's copy and in the processor's own; each is read for its bits. -/
def storeMsr (s : State) (p : Nat) (m : Msr) (v : W64) : State :=
  { s with msrs := putKey (putKey s.msrs (coreKey s.cfg p m) v) (ownKey p m) v }

/-- The BSP flag is bit 8 of IA32_APIC_BASE (R307), x2APIC mode its bit 10 (log 20). -/
def bspBit : W64 := 0x100#64
def x2apicBit : W64 := 0x400#64

/-- The smallest and the largest monitor line size: MON_MIN and MON_MAX, widened by the system coherence line size
that the BIOS wrote to IA32_MONITOR_FILTER_LINE_SIZE, 0 meaning none (R29, R268, log 17). -/
def monitorBounds (s : State) (p : Nat) : Nat × Nat :=
  let f := (storedMsr s p .monitorFilterLineSize).toNat
  if f = 0 then (s.cfg.monMin, s.cfg.monMax)
  else (min s.cfg.monMin (2 ^ f.log2), max s.cfg.monMax (2 ^ f.log2))

/-! ## Taking an exception, entering and leaving a handler -/

/-- The vector number that labels an exception in its outcome (R280, D27: the usual numbers, general knowledge); none
where the source does not name the exception (R267). -/
def ExcKind.vector : ExcKind → Option Nat
  | .ud => some 6
  | .ss => some 12
  | .gp => some 13
  | .pf => some 14
  | .mc => some 18
  | .unidentified => none

/-- The label of a fault record (R292, D27). -/
def FaultRecord.vector (f : FaultRecord) : Option Nat := f.kind.vector

/-- TAKING AN EXCEPTION (R291, R292, D10): the run of processor p ends with the outcome Fault(p, kind, code, pc);
pc is that of the instruction, nothing else changes, the other processors go on. -/
def raise (s : State) (p : Nat) (x : Proc) (k : ExcKind) (code : Option W32) : State :=
  s.setProc p { x with ended := some ⟨k, code, x.pc⟩ }

/-- The end of processor p's run at something the model refuses (R378, D23); every other outcome stays. -/
def contain (s : State) (p : Nat) (o : Out) : Out :=
  match o with
  | .refused r => .next (s.updProc p fun x => { x with refusal := some r })
  | .next t => .next t
  | .fault f => .fault f

/-- Where the code of a handler begins (R308, R331): it is identified by the vector, the table register and the
memory in which it is found, which stand for what the source leaves out (log 18). -/
def handlerOf (s : State) (x : Proc) (h : Handler) : W64 :=
  match h with
  | .smi => Config.handlerAddress h (x.smbase.setWidth 64) x.cr3 s.coh
  | .vector _ | .nmi => Config.handlerAddress h x.idtr.base x.cr3 s.coh

/-- Entering a handler (R292, R308, R331): delivery pushes the instruction pointer; the processor becomes Running
there. Q_p and every other register stay as they are (log 18). -/
def Proc.enterHandler (x : Proc) (pc : W64) : Proc :=
  { x.goTo pc with handlers := x.pc :: x.handlers, activity := .running }

/-- RETURN FROM A HANDLER (R122, R295): the instruction pointer pushed last is taken back; with nothing pushed
the place is a free value. -/
def Proc.leaveHandler (x : Proc) (tick : Nat) : Proc :=
  match x.handlers with
  | pc :: t => { x.goTo pc with handlers := t }
  | [] => x.goTo (Config.returnAddress tick)

/-- The monitor hardware of a processor is triggered, and a processor in MWAIT leaves it (R264 to R266). -/
def Proc.trigger (x : Proc) : Proc :=
  { x with
    monitor := .triggered
    activity := match x.activity with
      | .mwaitWait => .running
      | .stopGrant .mwaitWait => .stopGrant .running
      | a => a }

/-! ## Cached translations (R257, R258) -/

/-- A TLB invalidation or register write may trigger the processor's own monitor (R266, log 17). -/
def Proc.maybeTrigger (x : Proc) (tick : Nat) : Proc :=
  if Config.tlbEventTriggers tick then { x with monitor := .triggered } else x

/-- Processor p's cached translations that pass the test are dropped (R258). -/
def dropTlb (s : State) (p : Nat) (which : PageMap → Bool) : State :=
  { s with tlb := s.tlb.filter fun e => !(e.owner == p && which e.page) }

/-- CR3 of processor p changes: its cached translations that are not global are dropped, so that the next instruction is
fetched with the new tables (R26, R257, R258). -/
def newCr3 (s : State) (p : Nat) : State := dropTlb s p (!·.global)

/-! ## The queue Q_p (R144) -/

/-- Whether some byte of a write of n bytes at pa lies in Bytes(l). -/
def touchesLine (c : Config) (pa n l : Nat) : Bool :=
  (List.range n).any fun i => inRange l c.line (pa + i)

/-- e' nearer the head blocks e: e' is SF; or both are writes or CLFLUSHes; or e' is a write and e a
CLFLUSHOPT or CLWB of a line it touches (R144). -/
def blocks (c : Config) (e' e : QEntry) : Bool :=
  match e', e with
  | .sf, _ => true
  | .w _ _ _, .w _ _ _ => true
  | .w _ _ _, .cf _ => true
  | .cf _, .w _ _ _ => true
  | .cf _, .cf _ => true
  | .w pa n _, .co l => touchesLine c pa n l
  | .w pa n _, .cw l => touchesLine c pa n l
  | _, _ => false

/-- Entry i may be performed: nothing nearer the head blocks it, and SF only at the head (R144). -/
def mayPerform (c : Config) (q : List QEntry) (i : Nat) : Bool :=
  match q[i]? with
  | none => false
  | some e => (q.take i).all (fun e' => !blocks c e' e) && (e != .sf || i == 0)

/-- The byte at an address as processor x reads it: from the newest write of its queue that covers it, else
from Coh (R146). -/
def forwarded (s : State) (x : Proc) (a : Nat) : Byte :=
  (x.queue.reverse.findSome? fun e =>
    match e with
    | .w pa n v => if inRange pa n a then some (byteOf v (a - pa)) else none
    | _ => none).getD (readByte s.coh a)

/-- The bytes of a write, with their addresses. -/
def cellsOf (pa n : Nat) (v : W64) : List Host.Cell :=
  (List.range n).map fun i => (pa + i, byteOf v i)

/-- Whether another processor holds the bus lock (R39, R90). -/
def busHeld (s : State) (p : Nat) : Bool :=
  match s.busLock with
  | some q => q != p
  | none => false

/-! ## Performing a write (R145) -/

/-- Every other processor's fetch may still return the overwritten byte (R125, R126). -/
def noteStale (procs : List Proc) (p a : Nat) (old : Byte) : List Proc :=
  procs.mapIdx fun q x => if q = p then x else { x with stale := (a, old) :: x.stale }

/-- One byte reaches Coh; a WB line becomes Modified, whatever CD says (D17), other memory is written through
(R145). -/
def performByte (s : State) (p a : Nat) (b : Byte) : State :=
  let s1 : State := { s with
    coh := writeByte s.coh a b
    procs := noteStale s.procs p a (readByte s.coh a) }
  if memType s.cfg a = .wb then s1.setLine (lineOf s.cfg a) .modified
  else { s1 with mem := writeByte s1.mem a b }

/-- The bytes of a write reach Coh. -/
def performBytes (s : State) (p : Nat) : List Host.Cell → State
  | [] => s
  | (a, b) :: t => performBytes (performByte s p a b) p t

/-- A performed write of WB memory triggers every other processor's monitor armed on one of its bytes; its own
one or not (R145, R265). -/
def triggerMonitors (s : State) (p : Nat) (addrs : List Nat) : State :=
  { s with procs := s.procs.mapIdx fun q x =>
      match x.monitor with
      | .triggered => x
      | .armed lo size =>
        if addrs.any (fun a => memType s.cfg a == .wb && inRange lo size a) &&
            (q != p || Config.ownStoreTriggers s.tick)
        then x.trigger else x }

/-- A write is performed: it is globally visible from here on (R145, R225). -/
def performWrite (s : State) (p : Nat) (cells : List Host.Cell) : State :=
  triggerMonitors (performBytes s p cells) p (cells.map (·.1))

/-- A flush or write-back of a monitored line triggers the monitor or not (R206, U23). -/
def flushMonitors (s : State) (l : Nat) : State :=
  { s with procs := s.procs.mapIdx fun q x =>
      match x.monitor with
      | .triggered => x
      | .armed lo size =>
        if decide (lo < l + s.cfg.line) && decide (l < lo + size) && Config.flushTriggers s.tick q
        then x.trigger else x }

/-- CLFLUSH or CLFLUSHOPT of a line is performed (R142, R145). -/
def performFlush (s : State) (l : Nat) : State := flushMonitors (flushLine s l) l

/-- CLWB of a line is performed: it is written back, then kept or dropped as the hardware chooses
(R142, R145, R192). -/
def performClwb (s : State) (l : Nat) : State :=
  let s1 := writeBackLine s l
  flushMonitors (if Config.clwbInvalidates s.tick then s1.setLine l .invalid else s1) l

end Sys2Proof.Machine
end

