-- ==== Sys2Proof/Machine/Operands.lean ====
section
/-! DEFINITION. Address formation: effective address (30_encoding.md R157 to R159), segment and linear address
(20_memory.md R83, R84), translation (R85). -/

namespace Sys2Proof.Machine

open Sys2Proof

/-! ## Effective address -/

/-- A displacement, sign-extended (R157). -/
def dispValue : Disp → W64
  | .none => 0#64
  | .d8 v => v.signExtend 64
  | .d16 v => v.signExtend 64
  | .d32 v => v.signExtend 64

/-- The 4-bit register number of a REX bit and a 3-bit field (R157, R159). -/
def regNumber (hi : Bool) (lo : BitVec 3) : BitVec 4 := bitOf hi ++ lo

/-- REX.B and REX.X, zero without REX (R157). -/
def rexB (px : Prefixes) : Bool := (px.rex.map (·.b)).getD false
def rexX (px : Prefixes) : Bool := (px.rex.map (·.x)).getD false

/-- An offset modulo 2^A (R157). -/
def truncTo (a : AddrSize) (v : W64) : W64 :=
  match a with
  | .a16 => v &&& 0xFFFF#64
  | .a32 => v &&& 0xFFFFFFFF#64
  | .a64 => v

/-- The base of a 16-bit operand and its default segment (R157, first table), displacement left out. -/
def base16 (x : Proc) (m : MemOp) : W64 × Seg :=
  if m.rm = 0#3 then (x.reg .rbx + x.reg .rsi, .ds)
  else if m.rm = 1#3 then (x.reg .rbx + x.reg .rdi, .ds)
  else if m.rm = 2#3 then (x.reg .rbp + x.reg .rsi, .ss)
  else if m.rm = 3#3 then (x.reg .rbp + x.reg .rdi, .ss)
  else if m.rm = 4#3 then (x.reg .rsi, .ds)
  else if m.rm = 5#3 then (x.reg .rdi, .ds)
  else if m.rm = 6#3 then (if m.mod = 0#2 then (0#64, .ds) else (x.reg .rbp, .ss))
  else (x.reg .rbx, .ds)

/-- The scaled index: index 100B without REX.X means none (R157). -/
def scaledIndex (x : Proc) (px : Prefixes) (b : Sib) : W64 :=
  if regNumber (rexX px) b.index = 4#4 then 0#64
  else x.reg (gprOf (regNumber (rexX px) b.index)) <<< b.scale.toNat

/-- A base register with its default segment: SS for (E/R)SP and (E/R)BP, DS for any other (R157). -/
def baseReg (x : Proc) (n : BitVec 4) : W64 × Seg :=
  (x.reg (gprOf n), if n = 4#4 ∨ n = 5#4 then .ss else .ds)

/-- The base of a 32- or 64-bit operand and its default segment (R157), displacement left out. The operand
without a base is relative to the next instruction in 64-bit mode. -/
def base32 (x : Proc) (px : Prefixes) (m : MemOp) (pcNext : W64) : W64 × Seg :=
  if m.rm = 4#3 then
    match m.sib with
    | none => baseReg x (regNumber (rexB px) 4#3)
    | some b =>
      if m.mod = 0#2 ∧ b.base = 5#3 then (scaledIndex x px b, .ds)
      else
        let r := baseReg x (regNumber (rexB px) b.base)
        (r.1 + scaledIndex x px b, r.2)
  else if m.mod = 0#2 ∧ m.rm = 5#3 then ((if x.mode = .mode64 then pcNext else 0#64), .ds)
  else baseReg x (regNumber (rexB px) m.rm)

/-- The base and default segment for the address size. -/
def operandBase (x : Proc) (px : Prefixes) (m : MemOp) (pcNext : W64) : W64 × Seg :=
  match addrSizeOf x.decodeEnv px with
  | .a16 => base16 x m
  | .a32 => base32 x px m pcNext
  | .a64 => base32 x px m pcNext

/-- EA: the effective address of the operand, modulo 2^A (R157). -/
def effectiveAddress (x : Proc) (px : Prefixes) (m : MemOp) (pcNext : W64) : W64 :=
  truncTo (addrSizeOf x.decodeEnv px) ((operandBase x px m pcNext).1 + dispValue m.disp)

/-- The segment a prefix names (R152). -/
def segOfPrefix : LegacyPrefix → Option Seg
  | .es => some .es
  | .cs => some .cs
  | .ss => some .ss
  | .ds => some .ds
  | .fs => some .fs
  | .gs => some .gs
  | _ => none

/-- The last segment override before the opcode, if there is one (R158). -/
def segOverride (px : Prefixes) : Option Seg := px.legacy.reverse.findSome? segOfPrefix

/-- The segment of the operand: the override, else the default (R83, R158). -/
def operandSeg (x : Proc) (px : Prefixes) (m : MemOp) (pcNext : W64) : Seg :=
  (segOverride px).getD (operandBase x px m pcNext).2

/-! ## Linear address -/

/-- A linear address, or the exception of its checks (R83). -/
inductive LinRes where
  | ok (la : W64)
  | exc (k : ExcKind) (code : Option W32)
deriving DecidableEq, Repr

/-- SegOK(seg, ea, n): the segment is present and usable, the n bytes lie within its limit, and it is readable
or, where the instruction allows it, execute-only (R83, R84). -/
def segOk (d : SegReg) (ea : W64) (n : Nat) (execOnlyOk : Bool) : Bool :=
  d.present && d.usable && decide (ea.toNat + n ≤ d.limit.toNat + 1) &&
    (d.readable || (execOnlyOk && d.executable))

/-- Canonical(la): the high bits from bit canonicalBits - 1 on are all equal (R9, D13). -/
def canonical (c : Config) (la : W64) : Bool :=
  la.sshiftRight (c.canonicalBits - 1) == 0#64 || la.sshiftRight (c.canonicalBits - 1) == BitVec.allOnes 64

/-- The exception of a failed check: #SS(0) through SS, else #GP(0) (R282, R286). -/
def segFault (seg : Seg) : LinRes := .exc (if seg = .ss then .ss else .gp) (some 0#32)

/-- The base a segment adds in 64-bit mode: zero but for FS and GS (R83). -/
def base64 (x : Proc) (seg : Seg) : W64 :=
  match seg with
  | .fs => x.segs.fs.base
  | .gs => x.segs.gs.base
  | _ => 0#64

/-- Lin(seg, ea) with the checks of each mode (R83, R282 to R286). -/
def linear (c : Config) (x : Proc) (seg : Seg) (ea : W64) (n : Nat) (execOnlyOk : Bool) : LinRes :=
  match x.mode with
  | .realAddress | .virtual8086 =>
    if 0xFFFF < ea.toNat + n - 1 then .exc .gp none
    else .ok ((x.segs.get seg).selector.setWidth 64 * 16#64 + ea)
  | .protectedMode | .compatibility =>
    if segOk (x.segs.get seg) ea n execOnlyOk then
      .ok (((x.segs.get seg).base + ea) &&& 0xFFFFFFFF#64)
    else segFault seg
  | .mode64 =>
    if canonical c (base64 x seg + ea) then .ok (base64 x seg + ea) else segFault seg

/-- The linear address of the m8 operand of an instruction of len bytes (R83). -/
def operandLinear (c : Config) (x : Proc) (px : Prefixes) (m : MemOp) (len : Nat) (execOnlyOk : Bool) : LinRes :=
  let pcNext := x.pc + BitVec.ofNat 64 len
  linear c x (operandSeg x px m pcNext) (effectiveAddress x px m pcNext) 1 execOnlyOk

/-! ## Translation -/

/-- The kinds of access translation distinguishes (R84, R85). -/
inductive Access where
  | read | write | fetch
deriving DecidableEq, Repr

/-- A physical address or a page fault, with the tables after the walk (R85). -/
inductive TransRes where
  | ok (pa : Nat) (tables : List AddrSpace)
  | pageFault (tables : List AddrSpace)
deriving DecidableEq, Repr

/-- The pages of the tables CR3 selects (R26). -/
def pagesOf (s : State) (x : Proc) : List PageMap :=
  ((s.tables.find? fun t => t.cr3 == x.cr3).map (·.pages)).getD []

/-- Whether a page holds a linear address. -/
def PageMap.covers (m : PageMap) (la : Nat) : Bool := inRange m.la m.size la

/-- The page of a linear address in the tables. -/
def walk (s : State) (x : Proc) (la : Nat) : Option PageMap := (pagesOf s x).find? (·.covers la)

/-- A cached translation of processor p for a linear address (R38). -/
def tlbHit (s : State) (p la : Nat) : Option PageMap :=
  (s.tlb.find? fun e => e.owner == p && e.page.covers la).map (·.page)

/-- The accesses of a kind that a page permits, by CPL. -/
def PageMap.permits (m : PageMap) : Access → BitVec 4
  | .read => m.reads
  | .write => m.writes
  | .fetch => m.fetches

/-- The permission check of an access: present, and permitted at the CPL (R84, R85, R296). -/
def allowed (m : PageMap) (x : Proc) (acc : Access) : Bool := m.present && (m.permits acc).getLsbD x.cpl.toNat

/-- The flags an access sets in a page entry: A, and D by a write; an instruction fetch sets none
(R84, R92, log 14). -/
def PageMap.mark (m : PageMap) (acc : Access) : PageMap :=
  { m with accessed := m.accessed || acc != .fetch, dirty := m.dirty || acc == .write }

/-- The first page that holds la, marked. -/
def markFirst (la : Nat) (acc : Access) : List PageMap → List PageMap
  | [] => []
  | m :: t => if m.covers la then m.mark acc :: t else m :: markFirst la acc t

/-- The tables after a walk that marks la's page (R45, R92); those CR3 selects now, also where the translation came
from the TLB (log 1). -/
def markTables (s : State) (x : Proc) (la : Nat) (acc : Access) : List AddrSpace :=
  s.tables.map fun t => if t.cr3 == x.cr3 then { t with pages := markFirst la acc t.pages } else t

/-- A physical address with bit 20 forced to zero (R32). -/
def clearA20 (pa : Nat) : Nat := if pa.testBit 20 then pa - 2 ^ 20 else pa

/-- A20M# is asserted at processor p's package (R309). -/
def a20Masked (s : State) (p : Nat) : Bool := ((s.pins[packageOf s.cfg p]?).map (·.a20m)).getD false

/-- A20M#: bit 20 of the physical address is forced to zero while it is asserted (R32, R309). -/
def maskA20 (s : State) (p pa : Nat) : Nat :=
  if a20Masked s p then clearA20 pa else pa

/-- The physical address in a page. -/
def PageMap.target (m : PageMap) (la : Nat) : Nat := m.pa + (la - m.la)

/-- Whether translation is off: in real-address mode, and while paging is (R83, R283). -/
def untranslated (x : Proc) : Bool := x.mode == .realAddress || !x.pgInForce

/-- Whether a MOV CR0 has changed PG and the jump that an old processor needs is still to come (R256). -/
def pgUnsettled (x : Proc) : Bool := x.mode != .realAddress && x.pgInForce != x.cr0.pg

/-- Translate(la, acc, CPL) (R83, R85), setting the flags of a `mark` access in the entry: identity where there is no
translation; else a cached translation or the tables. Between a MOV CR0 that changes PG and the next jump on an old
processor the answer is free (R256). -/
def translateMarking (s : State) (p : Nat) (x : Proc) (la : Nat) (acc mark : Access) : TransRes :=
  if pgUnsettled x then
    if Config.unsettledFaults s.tick la then .pageFault s.tables
    else .ok (maskA20 s p (Config.unsettledAddress s.tick la % 2 ^ s.cfg.paBits)) s.tables
  else if untranslated x then .ok (maskA20 s p la) s.tables
  else match tlbHit s p la with
    | some m =>
      if allowed m x acc then .ok (maskA20 s p (m.target la)) (markTables s x la mark)
      else .pageFault s.tables
    | none =>
      match walk s x la with
      | none => .pageFault s.tables
      | some m =>
        if allowed m x acc then .ok (maskA20 s p (m.target la)) (markTables s x la mark)
        else if m.present && Config.failingWalkSetsA s.tick then .pageFault (markTables s x la .read)
        else .pageFault s.tables

/-- Translate(la, acc, CPL) of an access that completes (R83, R85). -/
def translate (s : State) (p : Nat) (x : Proc) (la : Nat) (acc : Access) : TransRes :=
  translateMarking s p x la acc acc

/-! ## The cache-line instructions, shared by the three -/

/-- The stages of R193 after decoding: #UD; linear address with its checks; translation as a byte read; the
entry appended to Q_p; pc advanced. No address matches a data breakpoint (R312, log 40). -/
def cacheLineStep (s : State) (p : Nat) (x : Proc) (px : Prefixes) (m : MemOp) (len : Nat)
    (ud execOnlyOk : Bool) (entry : Nat → QEntry) : State :=
  if ud then raise s p x .ud none
  else match operandLinear s.cfg x px m len execOnlyOk with
    | .exc k code => raise s p x k code
    | .ok la =>
      match translate s p x la.toNat .read with
      | .pageFault t => raise { s with tables := t } p x .pf (some (Config.pageFaultCode s.tick))
      | .ok pa t =>
        State.setProc { s with tables := t } p ((x.enqueue (entry (lineOf s.cfg pa))).advance len)

end Sys2Proof.Machine
end

