-- ==== Sys2Proof/Machine/CacheLine.lean ====
section
/-! DEFINITION. CLFLUSH, CLFLUSHOPT and CLWB (40_cache_line_flush.md). -/

namespace Sys2Proof.Machine

open Sys2Proof

/-- CLFLUSH (R190): #UD on LOCK or without CLFSH (R281); an execute-only segment is allowed (R84); `CF` of the
operand's line is appended to Q_p. -/
def execClflush (px : Prefixes) (m : MemOp) (s : State) : Out :=
  match s.procs[s.cur]? with
  | none => .fault .noSuchProcessor
  | some x => .next (cacheLineStep s s.cur x px m (Instr.clflush px m).length
      (px.has .lock || !s.cfg.hasClfsh) true QEntry.cf)

/-- CLFLUSHOPT (R191): #UD on LOCK, F2H, F3H or without CLFLUSHOPT (R281); an execute-only segment is allowed
(R84); `CO` of the operand's line is appended to Q_p. -/
def execClflushopt (px : Prefixes) (m : MemOp) (s : State) : Out :=
  match s.procs[s.cur]? with
  | none => .fault .noSuchProcessor
  | some x => .next (cacheLineStep s s.cur x px m (Instr.clflushopt px m).length
      (px.has .lock || px.has .repne || px.has .rep || !s.cfg.hasClflushopt) true QEntry.co)

/-- CLWB (R192): #UD on LOCK or without CLWB (R281); an execute-only segment as CLWB_EXEC_ONLY_OK says (R84);
`CW` of the operand's line is appended to Q_p. -/
def execClwb (px : Prefixes) (m : MemOp) (s : State) : Out :=
  match s.procs[s.cur]? with
  | none => .fault .noSuchProcessor
  | some x => .next (cacheLineStep s s.cur x px m (Instr.clwb px m).length
      (px.has .lock || !s.cfg.hasClwb) s.cfg.clwbExecOnlyOk QEntry.cw)

end Sys2Proof.Machine
end

