-- ==== Sys2Proof/Machine/Fences.lean ====
section
/-! DEFINITION. LFENCE, MFENCE and SFENCE (41_fences.md). -/

namespace Sys2Proof.Machine

open Sys2Proof

/-- A REX, segment-override or 67H prefix (R161 (f)). -/
def fencePrefixPresent (px : Prefixes) : Bool :=
  px.rex.isSome || px.legacy.any fun p => (segOfPrefix p).isSome || p == .addrSize

/-- What the three fences share: the prefixes the source leaves undefined are refused unless
FENCE_IGNORES_PREFIXES (R161 (f)), #UD on LOCK or without the feature (R281, R287), else the fence's effect. -/
def fenceStep (s : State) (px : Prefixes) (feature : Bool) (effect : Proc → State) : Out :=
  match s.procs[s.cur]? with
  | none => .fault .noSuchProcessor
  | some x =>
    if fencePrefixPresent px && !s.cfg.fenceIgnoresPrefixes then .refused .fencePrefix
    else if px.has .lock || !feature then .next (raise s s.cur x .ud none)
    else .next (effect x)

/-- LFENCE (R220): every earlier instruction has completed locally; Q_p is not waited for; only pc changes. -/
def execLfence (px : Prefixes) (rm : BitVec 3) (s : State) : Out :=
  fenceStep s px s.cfg.hasSse2 fun x => s.setProc s.cur (x.advance (Instr.lfence px rm).length)

/-- MFENCE (R221): it waits until Q_p is empty, leaving the state as it is (log 16); then only pc changes. -/
def execMfence (px : Prefixes) (rm : BitVec 3) (s : State) : Out :=
  fenceStep s px s.cfg.hasSse2 fun x =>
    if x.queue = [] then s.setProc s.cur (x.advance (Instr.mfence px rm).length) else s

/-- SFENCE (R222): the marker `SF` is appended to Q_p; it does not wait. -/
def execSfence (px : Prefixes) (rm : BitVec 3) (s : State) : Out :=
  fenceStep s px s.cfg.hasSse fun x =>
    s.setProc s.cur ((x.enqueue QEntry.sf).advance (Instr.sfence px rm).length)

end Sys2Proof.Machine
end

