-- ==== Sys2Proof/Machine/Dispatch.lean ====
section
/-! DEFINITION. One arm per instruction of the opcode table. -/

namespace Sys2Proof.Machine

open Sys2Proof

/-- The meaning of an instruction on the executing processor `s.cur`. -/
def exec (i : Instr) (s : State) : Host.Outcome State Fault Refusal :=
  match i with
  | .clflush px m => Sys2Proof.Machine.execClflush px m s
  | .clflushopt px m => Sys2Proof.Machine.execClflushopt px m s
  | .clwb px m => Sys2Proof.Machine.execClwb px m s
  | .lfence px rm => Sys2Proof.Machine.execLfence px rm s
  | .mfence px rm => Sys2Proof.Machine.execMfence px rm s
  | .sfence px rm => Sys2Proof.Machine.execSfence px rm s

end Sys2Proof.Machine
end

