-- ==== Sys2Proof/Machine/Apic.lean ====
section
/-! DEFINITION. The local APIC registers the source gives (10_state.md R30), interprocessor messages
(60_exceptions.md R305, R306), and what a message or an interrupt does to its processor (R331 to R335). -/

namespace Sys2Proof.Machine

open Sys2Proof

/-! ## Registers -/

/-- The address of a local APIC register (R30). -/
def ApicReg.address : ApicReg → Nat
  | .id => 0xFEE00020
  | .svr => 0xFEE000F0
  | .icrLow => 0xFEE00300
  | .lvt3 => 0xFEE00370

/-- The register at an address (R30). -/
def apicRegAt (pa : Nat) : Option ApicReg :=
  [ApicReg.id, .svr, .icrLow, .lvt3].find? (·.address == pa)

/-- The register an access to physical addresses reaches: one aligned doubleword of it, in xAPIC mode, where the
registers are accessed through memory (R30, R304). -/
def apicRegOf (x : Proc) (pas : List Nat) : Option ApicReg :=
  match pas with
  | [] => none
  | pa :: _ => if !x.x2apic && pas == (List.range 4).map (pa + ·) then apicRegAt pa else none

/-- Reading a local APIC register. -/
def Apic.read (a : Apic) : ApicReg → W32
  | .id => a.id
  | .svr => a.svr
  | .icrLow => a.icrLow
  | .lvt3 => a.lvt3

/-- Writing a local APIC register: it holds all 32 bits, also those the source does not fix (log 20). -/
def Apic.write (a : Apic) (r : ApicReg) (v : W32) : Apic :=
  match r with
  | .id => { a with id := v }
  | .svr => { a with svr := v }
  | .icrLow => { a with icrLow := v }
  | .lvt3 => { a with lvt3 := v }

/-! ## Sending -/

/-- The message an ICR value encodes: level in bit 14, delivery mode in bits 10:8, vector in bits 7:0
(R305; the modes NMI and SMI are the family's; INIT and SIPI alone need the level bit; no other bit counts, log 19). -/
def ipiKindOf (v : W32) : IpiKind :=
  let mode := v.extractLsb' 8 3
  let vector := v.extractLsb' 0 8
  if mode = 5#3 ∧ v.getLsbD 14 then .init
  else if mode = 6#3 ∧ v.getLsbD 14 then .sipi vector
  else if mode = 0#3 then .fixed vector
  else if mode = 4#3 then .nmi
  else if mode = 2#3 then .smi
  else .other v

/-- The destinations of an ICR value, by the shorthand in bits 19:18: all excluding self, all including self,
self, or the one the upper doubleword names, which the source does not give (R305, log 19). -/
def ipiDests (c : Config) (p : Nat) (v : W32) : List (Option Nat) :=
  let shorthand := v.extractLsb' 18 2
  if shorthand = 3#2 then ((List.range c.nproc).filter (· != p)).map some
  else if shorthand = 2#2 then (List.range c.nproc).map some
  else if shorthand = 1#2 then [some p]
  else [none]

/-- A message of an ICR value to each of the destinations given (R305). -/
def sendTo (s : State) (dests : List (Option Nat)) (v : W32) : State :=
  { s with ipis := s.ipis ++ dests.map fun d => ⟨d, ipiKindOf v⟩ }

/-- Each performed store to ICR_LOW sends one message to each destination (R305). -/
def sendIpi (s : State) (p : Nat) (v : W32) : State := sendTo s (ipiDests s.cfg p v) v

/-- A performed store to a local APIC register of processor p (R30, R305). -/
def apicStore (s : State) (p : Nat) (r : ApicReg) (v : W32) : State :=
  let s1 := s.updProc p fun x => { x with apic := x.apic.write r v }
  if r = .icrLow then sendIpi s1 p v else s1

/-! ## The rest of the local APIC page (R30, log 20) -/

/-- Whether some address lies in a register's doubleword. -/
def ApicReg.touched (pas : List Nat) (r : ApicReg) : Bool := pas.any fun a => inRange r.address 4 a

/-- A local APIC after a store to its page that is to no register the source gives: what the store reaches is free. -/
def Apic.scramble (a : Apic) (tick : Nat) (pas : List Nat) : Apic :=
  [ApicReg.id, .svr, .icrLow, .lvt3].foldl
    (fun b r => if r.touched pas then b.write r (Config.apicAfter tick r.address) else b) a

/-- A processor after such a store. In x2APIC mode the page does not reach the registers. -/
def Proc.scrambleApic (x : Proc) (tick : Nat) (pas : List Nat) : Proc :=
  if x.x2apic then x
  else { x with
    apic := x.apic.scramble tick pas
    lint0Masked := Config.apicMasks tick 0
    lint1Masked := Config.apicMasks tick 1 }

/-- Such a store of processor p; one that reaches ICR_LOW sends a message or none. -/
def apicOtherStore (s : State) (p : Nat) (pas : List Nat) : State :=
  let s1 := s.updProc p fun x => x.scrambleApic s.tick pas
  match s1.procs[p]? with
  | some x =>
    if !x.x2apic && ApicReg.icrLow.touched pas && Config.apicSends s.tick then sendIpi s1 p x.apic.icrLow else s1
  | none => s1

/-- A data byte as a load or a locked operation of processor x reads it (R30, R146). -/
def readData (s : State) (x : Proc) (a : Nat) : Byte :=
  if inApicPage a then Config.apicByte s.tick a else forwarded s x a

/-- The bytes at physical addresses as processor x reads them at once (R30, R146). -/
def dataBytes (s : State) (x : Proc) (pas : List Nat) : List Byte :=
  match apicRegOf x pas with
  | some r => (List.range 4).map (byteOf ((x.apic.read r).setWidth 64))
  | none => pas.map (readData s x)

/-- Bytes that processor p writes, performed: to a local APIC register, or to memory and the rest of the local APIC
page (R30, R145). -/
def writeData (s : State) (p : Nat) (cells : List Host.Cell) : State :=
  let pas := cells.map (·.1)
  match (s.procs[p]?).bind fun x => apicRegOf x pas with
  | some r => apicStore s p r ((valueOf (cells.map (·.2))).setWidth 32)
  | none =>
    if pas.any inApicPage then
      apicOtherStore (performWrite s p (cells.filter fun c => !inApicPage c.1)) p (pas.filter inApicPage)
    else performWrite s p cells

/-! ## Receiving -/

/-- INIT (R332, R355): the BSP flag decides between the boot-strap code at the reset vector and the
wait-for-SIPI state. Q_p and every other register stay (log 12). -/
def Proc.takeInit (x : Proc) : Proc :=
  let y : Proc := { x with
    monitor := .triggered, split := [], ioStore := false, ended := none, refusal := none, serializing := false }
  if x.bspFlag then
    { y with
      activity := .running
      mode := .realAddress
      cpl := 0#2
      pc := resetVector
      segs := { y.segs with cs := SegReg.resetCode }
      cr0 := { y.cr0 with pg := false }
      pgInForce := false }
  else { y with activity := .waitForSipi }

/-- CS after a SIPI: the segment that begins at the start-up page (R353, log 12). -/
def SegReg.startUp (vector : Byte) : SegReg :=
  ⟨vector ++ 0#8, vector.setWidth 64 <<< 12, 0xFFFF#32, true, true, true, true, false⟩

/-- SIPI (R332, R353): in `WaitForSIPI` the processor becomes Running in real-address mode at 000VV000H; in any
other state nothing happens. Every other register stays (log 12), and old bytes may still be fetched (log 13). -/
def Proc.takeSipi (x : Proc) (vector : Byte) : Proc :=
  if x.activity = .waitForSipi then
    { x with
      activity := .running
      mode := .realAddress
      cpl := 0#2
      pc := vector.setWidth 64 <<< 12
      segs := { x.segs with cs := SegReg.startUp vector }
      cr0 := { x.cr0 with pg := false }
      pgInForce := false
      ended := none
      refusal := none }
  else x

/-- A maskable interrupt (R331, R333): it wakes a halted processor when IF = 1; it ends the MWAIT state, and is
taken there when IF = 1. Its handler begins at pc. No Running processor takes it (R293). -/
def Proc.takeMaskable (x : Proc) (pc : W64) : Proc :=
  match x.activity with
  | .halted => if x.eflags.ifFlag then x.enterHandler pc else x
  | .mwaitWait => if x.eflags.ifFlag then x.trigger.enterHandler pc else x.trigger
  | _ => x

/-- NMI or SMI (R331, R333): as a maskable interrupt, but IF does not count. -/
def Proc.takeUnmaskable (x : Proc) (pc : W64) : Proc :=
  match x.activity with
  | .halted => x.enterHandler pc
  | .mwaitWait => x.trigger.enterHandler pc
  | _ => x

/-- Whether a processor can take a message now, but for STPCLK#; a message it cannot take stays pending (log 19).
INIT does not leave `Shutdown` (R334); until the hardware selection is over a processor takes BIPI and FIPI alone
(R352). -/
def Proc.canTake (x : Proc) (k : IpiKind) : Bool :=
  match x.boot, x.activity, k with
  | _, .stopGrant _, _ => false
  | _, .shutdown, .init => false
  | _, _, .bipi _ => true
  | _, _, .fipi _ => true
  | .arbitrating, _, _ => false
  | .awaitingFipi, _, _ => false
  | .done, _, .init => true
  | .done, _, .sipi _ => true
  | .done, .halted, .fixed _ => x.eflags.ifFlag
  | .done, .mwaitWait, .fixed _ => true
  | .done, _, .fixed _ => false
  | .done, .halted, .nmi => true
  | .done, .mwaitWait, .nmi => true
  | .done, _, .nmi => false
  | .done, .halted, .smi => true
  | .done, .mwaitWait, .smi => true
  | .done, _, .smi => false
  | .done, _, .other _ => true

/-! ## The boot-phase messages (R306, Table 8-5) -/

inductive TriggerMode where
  | edge | level
deriving DecidableEq, Repr

inductive IpiLevel where
  | deassert | assert
deriving DecidableEq, Repr

inductive Shorthand where
  | allIncludingSelf | allExcludingSelf
deriving DecidableEq, Repr

/-- A row of Table 8-5; a destination mode of none is "Don't Care". -/
structure BootFormat where
  destinationUsed : Bool
  shorthand : Shorthand
  trigger : TriggerMode
  level : IpiLevel
  physical : Option Bool
  delivery : BitVec 3
  firstVector : Byte
  lastVector : Byte
deriving DecidableEq, Repr

/-- The rows BIPI, FIPI and SIPI. -/
def IpiKind.format : IpiKind → Option BootFormat
  | .bipi _ => some ⟨false, .allIncludingSelf, .edge, .deassert, none, 0#3, 0x40#8, 0x4E#8⟩
  | .fipi _ => some ⟨false, .allIncludingSelf, .edge, .deassert, none, 0#3, 0x10#8, 0x10#8⟩
  | .sipi _ => some ⟨true, .allExcludingSelf, .edge, .assert, some true, 6#3, 0x00#8, 0xFF#8⟩
  | .init | .fixed _ | .nmi | .smi | .other _ => none

/-- The messages of a boot-phase IPI that processor p sends, to the processors of its row's shorthand. -/
def bootIpis (c : Config) (p : Nat) (k : IpiKind) : List Ipi :=
  match k.format with
  | none => []
  | some f => match f.shorthand with
    | .allIncludingSelf => (List.range c.nproc).map fun q => ⟨some q, k⟩
    | .allExcludingSelf => ((List.range c.nproc).filter (· != p)).map fun q => ⟨some q, k⟩

/-- The vector of a FIPI (R306). -/
def fipiVector : Byte := 0x10#8

/-- The vector of a BIPI: generation ID 4H and the APIC ID of its sender; FH is no valid ID (R306, R324). -/
def bipiVector (id : BitVec 4) : Option Byte := if id = 0xF#4 then none else some (4#4 ++ id)

/-- A processor selects itself as BSP when the low four bits of the first BIPI's vector are its APIC ID (R352). -/
def selectsItself (first : Byte) (id : BitVec 4) : Bool := first.extractLsb' 0 4 == id

/-- A BIPI at a processor (R352, steps 4 and 6): the first decides between BSP and AP, later ones are ignored. A processor
that is shut down stays so (R334). -/
def Proc.takeBipi (x : Proc) (vector : Byte) (id : BitVec 4) : Proc :=
  match x.boot, x.activity with
  | _, .shutdown => x
  | .arbitrating, _ =>
    if selectsItself vector id then { x with bspFlag := true, boot := .awaitingFipi }
    else { x with bspFlag := false, boot := .done, activity := .waitForSipi }
  | .awaitingFipi, _ => x
  | .done, _ => x

/-- The FIPI at a processor (R352, step 7): the BSP alone responds, at the reset vector, unless it is shut down
(R334). -/
def Proc.takeFipi (x : Proc) : Proc :=
  match x.boot, x.activity with
  | _, .shutdown => x
  | .awaitingFipi, _ => { x with boot := .done, activity := .running, pc := resetVector }
  | .arbitrating, _ => x
  | .done, _ => x

/-- The four low bits of a processor's APIC ID (R306). -/
def shortId (c : Config) (p : Nat) : BitVec 4 := (c.apicIdOf p).setWidth 4

/-- A BIPI delivered to processor p: one that selects itself broadcasts the FIPI, behind the BIPIs outstanding
(R352, step 5). -/
def deliverBipi (s : State) (p : Nat) (x : Proc) (vector : Byte) : State :=
  let y := x.takeBipi vector (shortId s.cfg p)
  let s1 := s.setProc p y
  if x.boot = .arbitrating ∧ y.boot = .awaitingFipi then { s1 with ipis := s1.ipis ++ bootIpis s.cfg p (.fipi fipiVector) }
  else s1

/-- Whether a message is a BIPI. -/
def IpiKind.isBipi : IpiKind → Bool
  | .bipi _ => true
  | .fipi _ | .init | .sipi _ | .fixed _ | .nmi | .smi | .other _ => false

/-- Whether a message's turn has come: a FIPI is handled only after every BIPI (R352, step 5). -/
def Ipi.inTurn (m : Ipi) (pending : List Ipi) : Bool :=
  match m.kind with
  | .fipi _ => !pending.any (·.kind.isBipi)
  | .bipi _ | .init | .sipi _ | .fixed _ | .nmi | .smi | .other _ => true

/-- Whether a message is for processor p, and one it can take. -/
def Ipi.isFor (m : Ipi) (p : Nat) (x : Proc) : Bool := (m.dest == some p || m.dest == none) && x.canTake m.kind

/-- Whether a message can go to processor p now. -/
def Ipi.canGo (m : Ipi) (pending : List Ipi) (p : Nat) (x : Proc) : Bool := m.isFor p x && m.inTurn pending

/-- The message processor p is given next: the oldest that can go to it (R305, log 19). -/
def nextMessage (s : State) (p : Nat) (x : Proc) : Option Ipi := s.ipis.find? (·.canGo s.ipis p x)

/-- The oldest message that can go to processor p is delivered (R305, R308), unless STPCLK# is asserted (R309). -/
def deliver (s : State) (p : Nat) : Out :=
  match s.procs[p]? with
  | none => .fault .noSuchProcessor
  | some x =>
    if stopped s p then .next s
    else
      match nextMessage s p x with
      | none => .next s
      | some m =>
        let s1 : State := { s with ipis := s.ipis.erase m }
        match m.kind with
        | .init => .next (s1.setProc p x.takeInit)
        | .sipi v => .next (s1.setProc p (x.takeSipi v))
        | .fixed v => .next (s1.setProc p (x.takeMaskable (handlerOf s x (.vector v))))
        | .nmi => .next (s1.setProc p (x.takeUnmaskable (handlerOf s x .nmi)))
        | .smi => .next (s1.setProc p (x.takeUnmaskable (handlerOf s x .smi)))
        | .bipi v => .next (deliverBipi s1 p x v)
        | .fipi _ => .next (s1.setProc p x.takeFipi)
        | .other _ => contain s1 p (.refused .ipiModeNotGiven)

end Sys2Proof.Machine
end

