-- ==== Sys2Proof/Machine/Queue.lean ====
section
/-! DEFINITION. Performing an entry of Q_p (20_memory.md R144, R145). -/

namespace Sys2Proof.Machine

open Sys2Proof

/-- Whether some byte of a write lies in the local APIC page. -/
def touchesApic (pa n : Nat) : Bool := (List.range n).any fun i => inApicPage (pa + i)

/-- The effect of performing an entry, once it has left Q_p (R145): a write to the local APIC reaches its
register (R30). -/
def performEntry (s : State) (p : Nat) (e : QEntry) : State :=
  match e with
  | .w pa n v => writeData s p (cellsOf pa n v)
  | .cf l => performFlush s l
  | .co l => performFlush s l
  | .cw l => performClwb s l
  | .sf => s

/-- The memory system performs entry i of Q_p, where it may and no other processor holds the bus lock
(R144, R145); else nothing happens. -/
def perform (s : State) (p i : Nat) : Out :=
  match s.procs[p]? with
  | none => .fault .noSuchProcessor
  | some x =>
    if busHeld s p || !mayPerform s.cfg x.queue i then .next s
    else
      match x.queue[i]? with
      | none => .next s
      | some e => .next (performEntry (s.setProc p { x with queue := x.queue.eraseIdx i }) p e)

end Sys2Proof.Machine
end

