-- ==== Sys2Proof/Machine/Fetch.lean ====
section
/-! DEFINITION. Fetching an instruction's bytes and decoding them (30_encoding.md R163, 20_memory.md R125,
92_eei_decisions.md D8). -/

namespace Sys2Proof.Machine

open Sys2Proof

/-- What a fetch answers. -/
inductive FetchRes where
  | instr (i : Instr)
  | tooLong
  | stop (r : Refusal)
deriving DecidableEq, Repr

/-- EIP: the offset of pc in the code segment, outside 64-bit mode (R22; pc is linear, log 12). -/
def codeOffset (x : Proc) : Nat := (x.pc - x.segs.cs.base).toNat % 2 ^ 32

/-- Byte i of an instruction at pc passes the top of the address space, the limit of the code segment, or is
not canonical (D8, R163). -/
def codeStop (c : Config) (x : Proc) (i : Nat) : Option Refusal :=
  if x.mode = .mode64 then
    if 2 ^ 64 ≤ x.pc.toNat + i then some .fetchPastTop
    else if canonical c (x.pc + BitVec.ofNat 64 i) then none
    else some .fetchFault
  else if 2 ^ 32 ≤ x.pc.toNat + i then some .fetchPastTop
  else if x.segs.cs.limit.toNat < codeOffset x + i then some .fetchPastSegmentLimit
  else none

/-- The byte a fetch returns, from memory of any type without waiting (R125, R126, log 13): the current one or, where
the byte was overwritten since the last jump or serializing instruction, any of the bytes that stood there since. -/
def fetchedByte (s : State) (x : Proc) (pa : Nat) : Byte :=
  let olds := (x.stale.filter fun c => c.1 == pa).map (·.2)
  if olds = [] then forwarded s x pa
  else (forwarded s x pa :: olds).getD (Config.fetchPick s.tick pa % (olds.length + 1)) (forwarded s x pa)

/-- Fetching byte i of the instruction at pc. -/
def fetchByte (s : State) (p : Nat) (x : Proc) (i : Nat) : Byte ⊕ Refusal :=
  match codeStop s.cfg x i with
  | some r => .inr r
  | none =>
    match translate s p x (x.pc.toNat + i) .fetch with
    | .pageFault _ => .inr .fetchFault
    | .ok pa _ =>
      if 2 ^ s.cfg.paBits ≤ pa then .inr .outsidePhysicalSpace
      else if inApicPage pa || !isBacked s.cfg pa then .inr .fetchUnbacked
      else if memType s.cfg pa = .wc then .inr .wcMemory
      else .inl (fetchedByte s x pa)

/-- The bytes of n positions from i on, as far as they can be fetched, and why they end. -/
def fetchBytes (s : State) (p : Nat) (x : Proc) : Nat → Nat → List Byte × Option Refusal
  | _, 0 => ([], none)
  | i, n + 1 =>
    match fetchByte s p x i with
    | .inr e => ([], some e)
    | .inl b =>
      let r := fetchBytes s p x (i + 1) n
      (b :: r.1, r.2)

/-- The number of a refused encoding (R154 row 7, R161). -/
def Outside.code : Outside → Nat
  | .otherOpcode => 0
  | .clflushWithRepeat => 1
  | .clwbWithRepeat => 2
  | .reg6Without66 => 3
  | .fenceWithMandatoryPrefix => 4
  | .otherReg => 5

/-- The address after an instruction of n bytes at pc is one that RIP, or EIP and the linear address space, hold
(R22). -/
def pcFits (x : Proc) (n : Nat) : Bool :=
  if x.mode = .mode64 then decide (x.pc.toNat + n < 2 ^ 64)
  else decide (x.pc.toNat + n < 2 ^ 32) && decide (codeOffset x + n < 2 ^ 32)

/-- Fetching and decoding the instruction at pc (R163). No byte after the 15th is fetched, so that a longer instruction
is #GP(0) whether or not its later bytes could be (log 12). -/
def fetchInstr (s : State) (p : Nat) (x : Proc) : FetchRes :=
  let r := fetchBytes s p x 0 15
  match decode x.decodeEnv r.1 with
  | .ok i _ => .instr i
  | .tooLong => .tooLong
  | .outside o => .stop (.outsideSpecification (Outside.code o))
  | .incomplete => .stop (r.2.getD .fetchFault)

/-- The first byte of an abstract step of n bytes that may not be fetched (D8). -/
def stepStop (c : Config) (x : Proc) (n : Nat) : Option Refusal := (List.range n).findSome? (codeStop c x)

/-- The outcome of an instruction of n bytes that goes on behind itself: where that passes the top of the address space
its effect stands, and the run of the processor ends there (R22, D8, U17, log 12). One that waits, or raises an exception, has
not moved pc. -/
def endAtWrap (p : Nat) (x : Proc) (n : Nat) (o : Out) : Out :=
  match o with
  | .next t =>
    if pcFits x n || ((t.procs[p]?).map (·.pc == x.pc)).getD true then .next t
    else .next (t.updProc p fun y => { y with refusal := some .pcWraps })
  | .fault f => .fault f
  | .refused r => .refused r

end Sys2Proof.Machine
end

