-- ==== Sys2Proof/Machine/Access.lean ====
section
/-! DEFINITION. Data accesses of the abstract steps: linear address, translation of each byte, the checks on the
physical addresses, one event or split (20_memory.md R74 to R79), loads and stores against Q_p (R146). -/

namespace Sys2Proof.Machine

open Sys2Proof

/-- A value (R241), of a register's width (R21). -/
def Proc.src (x : Proc) : Src → W64
  | .imm v => x.sized v
  | .reg r => x.get r

/-- The linear address of an operand (R241); outside 64-bit mode it has 32 bits (log 28). -/
def Proc.linearOf (x : Proc) (a : AddrExpr) : W64 := x.sized ((a.base.map x.get).getD 0#64 + a.disp)

/-- The physical addresses of the bytes of an access, or its exception, with the tables after the walks. -/
inductive BytesRes where
  | ok (pas : List Nat) (tables : List AddrSpace)
  | exc (k : ExcKind) (code : Option W32) (tables : List AddrSpace)
deriving DecidableEq, Repr

/-- Translating n bytes from linear address la on, the lowest first, setting the flags of a `mark` access
(R83, R85); outside 64-bit mode the byte after FFFFFFFFH is byte 0 (log 28). -/
def translateRun (s : State) (p : Nat) (x : Proc) (acc mark : Access) : W64 → Nat → BytesRes
  | _, 0 => .ok [] s.tables
  | la, n + 1 =>
    if x.mode = .mode64 ∧ canonical s.cfg la = false then .exc .gp (some 0#32) s.tables
    else match translateMarking s p x la.toNat acc mark with
      | .pageFault t => .exc .pf (some (Config.pageFaultCode s.tick)) t
      | .ok pa t =>
        match translateRun { s with tables := t } p x acc mark (x.sized (la + 1#64)) n with
        | .ok pas t' => .ok (pa :: pas) t'
        | .exc k c t' => .exc k c t'

/-- The bytes of an access: one that fails at some byte sets accessed flags alone (R291, D20), one that completes
those of its kind. -/
def translateBytes (s : State) (p : Nat) (x : Proc) (acc : Access) (la : W64) (n : Nat) : BytesRes :=
  match translateRun s p x acc .read la n with
  | .exc k c t => .exc k c t
  | .ok _ _ => translateRun s p x acc acc la n

/-- What stands in the way of an access to physical addresses: no such address (R32), WC memory (R149), nothing
behind it (R82, log 34). -/
def accessStop (c : Config) (pas : List Nat) : Option Refusal :=
  if pas.any fun a => decide (2 ^ c.paBits ≤ a) then some .outsidePhysicalSpace
  else if pas.any fun a => memType c a == .wc then some .wcMemory
  else if pas.any fun a => !isBacked c a then some .unbackedAddress
  else none

/-- The physical addresses of an access, once nothing stands in its way; k goes on with them. -/
def withAddresses (s : State) (p : Nat) (x : Proc) (la : W64) (n : Nat) (acc : Access)
    (k : State → List Nat → Out) : Out :=
  match translateBytes s p x acc la n with
  | .exc e code t => .next (raise { s with tables := t } p x e code)
  | .ok pas t =>
    match accessStop s.cfg pas with
    | some r => .refused r
    | none => k { s with tables := t } pas

/-- The addresses follow one another. -/
def consecutive : List Nat → Bool
  | [] => true
  | [_] => true
  | a :: b :: t => decide (b = a + 1) && consecutive (b :: t)

/-- Whether an access is one event: one byte, aligned to its size (R74, R75, R78), a word inside a doubleword of
uncached memory (R75), or inside one line of cached memory where P6_ATOMIC_WITHIN_LINE (R76, R79). Uncached is type
UC, cached type WB or WT, of the first byte (log 21). -/
def oneEvent (c : Config) (pas : List Nat) : Bool :=
  let pa := pas.headD 0
  let n := pas.length
  consecutive pas &&
    (n ≤ 1 || pa % n == 0 ||
      (n == 2 && memType c pa == .uc && pa % 4 != 3) ||
      (c.p6AtomicWithinLine && (memType c pa == .wb || memType c pa == .wt) &&
        lineOf c pa == lineOf c (pa + n - 1)))

/-- Whether Q_p holds a write to UC memory: it is performed before p's next memory access (R149). -/
def ucPending (c : Config) (x : Proc) : Bool :=
  x.queue.any fun e => match e with
    | .w pa n _ => (List.range n).any fun i => memType c (pa + i) == .uc
    | _ => false

/-- Whether some address is in UC memory. -/
def touchesUc (c : Config) (pas : List Nat) : Bool := pas.any fun a => memType c a == .uc

/-! ## Loads -/

/-- Where a load stands: it waits, it has read one more byte, or it has its value. -/
inductive LoadRes where
  | wait
  | more (split : List (Nat × Byte))
  | value (v : W64)
deriving DecidableEq, Repr

/-- The positions a split load has not read yet. -/
def unread (x : Proc) (n : Nat) : List Nat :=
  (List.range n).filter fun i => !x.split.any fun e => e.1 == i

/-- The value of a split load that has read every position. -/
def splitValue (split : List (Nat × Byte)) (n : Nat) : W64 :=
  valueOf ((List.range n).map fun i => ((split.find? fun e => e.1 == i).map (·.2)).getD 0#8)

/-- A split load reads one more byte, at a position in any order (R79). -/
def splitLoad (s : State) (x : Proc) (pas : List Nat) : LoadRes :=
  let left := unread x pas.length
  let i := left.getD (Config.splitPick s.tick 0 % left.length) 0
  let split := x.split ++ [(i, readData s x (pas.getD i 0))]
  if left.length ≤ 1 then .value (splitValue split pas.length) else .more split

/-- A load from physical addresses (R146, R149): it waits while another processor holds the bus lock, while a
write to UC memory is pending, and, from UC memory, while Q_p is not empty. -/
def loadBytes (s : State) (p : Nat) (x : Proc) (pas : List Nat) : LoadRes :=
  if busHeld s p || ucPending s.cfg x || (touchesUc s.cfg pas && !x.queue.isEmpty) then .wait
  else if oneEvent s.cfg pas then .value (valueOf (dataBytes s x pas))
  else splitLoad s x pas

/-! ## Stores -/

/-- The cells in an order the hardware chooses (R79). -/
def pickOrder (tick : Nat) : Nat → List Host.Cell → List Host.Cell
  | 0, l => l
  | k + 1, l =>
    let i := Config.splitPick tick (k + 1) % l.length
    match l[i]? with
    | none => l
    | some c => c :: pickOrder tick k (l.eraseIdx i)

/-- The entries a store of a value at physical addresses appends: one `W`, or one for each byte (R79, R146). -/
def storeEntries (s : State) (pas : List Nat) (v : W64) : List QEntry :=
  if oneEvent s.cfg pas then [.w (pas.headD 0) pas.length v]
  else (pickOrder s.tick pas.length (pas.mapIdx fun i a => (a, byteOf v i))).map
    fun c => .w c.1 1 (c.2.setWidth 64)

/-- A processor's own fetch may still return the bytes its store overwrites (R125). -/
def ownStale (s : State) (x : Proc) (pas : List Nat) : List Host.Cell :=
  pas.map fun a => (a, forwarded s x a)

/-- A store executed: its entries are appended to Q_p (R146). -/
def Proc.storeBytes (s : State) (x : Proc) (pas : List Nat) (v : W64) : Proc :=
  { x with queue := x.queue ++ storeEntries s pas v, stale := ownStale s x pas ++ x.stale }

end Sys2Proof.Machine
end

