-- ==== Sys2Proof/Machine/Moves.lean ====
section
/-! DEFINITION. Loads, stores, register moves, locked operations, I/O and jumps (42_referenced_instructions.md
section 1). Every meaning takes the step's length, the processor's number and state, and the system. A step that
has to wait leaves the state as it is (log 16). -/

namespace Sys2Proof.Machine

open Sys2Proof

/-- `mov r, [a]` (R241, R146). A split load translates its address again at each of its moves (log 21). -/
def execLoad (r : Gpr) (a : AddrExpr) (w : Width) (len p : Nat) (x : Proc) (s : State) : Out :=
  withAddresses s p x (x.linearOf a) w.bytes .read fun t pas =>
    match loadBytes s p x pas with
    | .wait => .next s
    | .more split => .next (t.setProc p { x with split := split })
    | .value v => .next (t.setProc p (({ x with split := [] }.put r v).advance len))

/-- `mov [a], v` (R241, R146, R149). -/
def execStore (a : AddrExpr) (w : Width) (v : Src) (len p : Nat) (x : Proc) (s : State) : Out :=
  withAddresses s p x (x.linearOf a) w.bytes .write fun t pas =>
    if ucPending s.cfg x then .next s
    else .next (t.setProc p ((x.storeBytes s pas (x.src v)).advance len))

/-- MOV to a register (R241). -/
def execMovReg (r : Gpr) (v : Src) (len p : Nat) (x : Proc) (s : State) : Out :=
  .next (s.setProc p ((x.put r (x.src v)).advance len))

/-- The result of a two-operand instruction in its register, and its flags, which are free (log 22). -/
def Proc.alu (x : Proc) (op : LockOp) (r : Gpr) (b result : W64) : Proc :=
  { x.put r result with eflags := aluFlags op (x.get r) b x.eflags }

/-- The addition of program P3. -/
def execAddReg (r : Gpr) (v : Src) (len p : Nat) (x : Proc) (s : State) : Out :=
  .next (s.setProc p ((x.alu .add r (x.src v) (x.get r + x.src v)).advance len))

/-- AND of a register (R358). -/
def execAndReg (r : Gpr) (v : Src) (len p : Nat) (x : Proc) (s : State) : Out :=
  .next (s.setProc p ((x.alu .and r (x.src v) (x.get r &&& x.src v)).advance len))

/-- OR of a register (R358). -/
def execOrReg (r : Gpr) (v : Src) (len p : Nat) (x : Proc) (s : State) : Out :=
  .next (s.setProc p ((x.alu .or r (x.src v) (x.get r ||| x.src v)).advance len))

/-! ## Locked operations -/

/-- The cells of bytes at physical addresses. -/
def cellsAt (pas : List Nat) (bs : List Byte) : List Host.Cell := pas.zip bs

/-- Whether a locked operation of processor p can take the lock: Q_p is empty and no other processor holds it
(R90). -/
def lockFree (s : State) (p : Nat) (x : Proc) : Bool := x.queue.isEmpty && !busHeld s p

/-- A locked read-modify-write of n bytes (R90, R95, R242, R243): it waits until Q_p is empty and the bus lock is
free, then reads, computes and writes as one step at any alignment, and leaves the lock free. `new` and `regs` give
the bytes written and the processor afterwards from the old bytes. -/
def lockedStep (a : AddrExpr) (n : Nat) (new : List Byte → List Byte) (regs : List Byte → Proc → Proc)
    (len p : Nat) (x : Proc) (s : State) : Out :=
  withAddresses s p x (x.linearOf a) n .write fun t pas =>
    if lockFree s p x then
      let old := dataBytes s x pas
      let olds := ownStale s x pas
      .next ({ writeData t p (cellsAt pas (new old)) with busLock := none }.updProc p fun y =>
        { (regs old y).advance len with stale := olds ++ y.stale })
    else .next s

/-- The n low bytes of a value. -/
def lowBytes (n : Nat) (v : W64) : List Byte := (List.range n).map (byteOf v)

/-- `xchg [a], r` (R242), at every CPL (log 24). -/
def execXchg (a : AddrExpr) (r : Gpr) (w : Width) (len p : Nat) (x : Proc) (s : State) : Out :=
  lockedStep a w.bytes (fun _ => lowBytes w.bytes (x.get r)) (fun old y => y.put r (valueOf old)) len p x s

/-- The register file that general-register results leave; a register that keeps its value is not written (R21). -/
def Proc.withResults (x : Proc) (results : Vector W64 16) : Proc :=
  { x with gpr := Vector.zipWith (fun old new => if new = x.sized old then old else x.sized new) x.gpr results }

/-- The general registers as an instruction reads them (R21). -/
def Proc.inputs (x : Proc) : Vector W64 16 := x.gpr.map x.sized

/-- A LOCK-prefixed read-modify-write f (R243) of n bytes: for each name and source operand, the bytes written, the
registers and the flags are free functions of the old bytes, the registers and the flags. No CPL is checked (log 24). -/
def execLocked (f : LockFn) (a : AddrExpr) (n len p : Nat) (x : Proc) (s : State) : Out :=
  lockedStep a n (fun old => (List.range n).map (Config.lockedByte f old x.inputs x.eflags.rest))
    (fun old y => { y.withResults (Config.lockedRegs f old x.inputs x.eflags.rest) with
      eflags := lockedFlags f old x.inputs y.eflags }) len p x s

/-- LOCK on another instruction or with a register destination: #UD (R93, R243). -/
def execLockInvalid (p : Nat) (x : Proc) (s : State) : Out := .next (raise s p x .ud none)

/-! ## I/O -/

/-- Input (R244): it waits for an empty Q_p, and not for the bus lock (log 28); the value is the platform's. No CPL is
checked (log 24). -/
def execIoIn (port : W16) (r : Gpr) (len p : Nat) (x : Proc) (s : State) : Out :=
  if !x.queue.isEmpty then .next s
  else .next (State.setProc { s with ioTrace := s.ioTrace ++ [⟨p, port, none⟩] } p
    ((x.put r (Config.ioInput s.tick)).advance len))

/-- Output (R244): it waits for an empty Q_p, and not for the bus lock (log 28). No CPL is checked (log 24). -/
def execIoOut (port : W16) (v : Src) (len p : Nat) (x : Proc) (s : State) : Out :=
  if !x.queue.isEmpty then .next s
  else .next (State.setProc { s with ioTrace := s.ioTrace ++ [⟨p, port, some (x.src v)⟩] } p (x.advance len))

/-! ## Jumps -/

/-- A jump: fetches after it read current bytes (R125, R247), and a change of PG is in force (R256). No branch is
recorded in the last-branch-record stack (R28, log 40). -/
def Proc.jumpTo (x : Proc) (t : W64) : Proc :=
  { x.goTo t with stale := [], pgInForce := x.cr0.pg }

/-- `Jump(t)` (R247). -/
def execJump (t : W64) (p : Nat) (x : Proc) (s : State) : Out := .next (s.setProc p (x.jumpTo t))

/-- The conditions of conditional jumps. -/
def Proc.holds (x : Proc) : Cond → Bool
  | .regZero r => x.get r == 0#64
  | .regBelow r v => decide ((x.get r).toNat < (x.sized v).toNat)

/-- A conditional jump (95_test_vectors.md section 3). -/
def execJumpIf (c : Cond) (t : W64) (len p : Nat) (x : Proc) (s : State) : Out :=
  .next (s.setProc p (if x.holds c then x.jumpTo t else x.advance len))

end Sys2Proof.Machine
end

