-- ==== Sys2Proof/Machine/Descriptors.lean ====
section
/-! DEFINITION. The steps that update a descriptor's flag under the lock: loading a segment register and switching
to a task (20_memory.md R85, R92). Descriptors are plain data of the state (log 36). -/

namespace Sys2Proof.Machine

open Sys2Proof

/-- The descriptor a selector names. -/
def descriptorOf (s : State) (sel : W16) : Option Descriptor := s.descriptors.find? (·.selector == sel)

/-- The descriptors with the one a selector names changed by f. -/
def updDescriptor (s : State) (sel : W16) (f : Descriptor → Descriptor) : State :=
  { s with descriptors := s.descriptors.map fun d => if d.selector == sel then f d else d }

/-- A segment register put in its place (R24). -/
def SegRegs.put (s : SegRegs) (r : Seg) (v : SegReg) : SegRegs :=
  match r with
  | .cs => { s with cs := v }
  | .ds => { s with ds := v }
  | .ss => { s with ss := v }
  | .es => { s with es := v }
  | .fs => { s with fs := v }
  | .gs => { s with gs := v }

/-- A segment register in real-address or virtual-8086 mode: a selector alone (R83). -/
def SegReg.ofSelector (old : SegReg) (sel : W16) : SegReg :=
  { old with selector := sel, base := sel.setWidth 64 <<< 4 }

/-- A null selector makes a segment unusable (log 36). -/
def SegReg.null (old : SegReg) (sel : W16) : SegReg := { old with selector := sel, usable := false }

/-- A present descriptor of a segment, which a segment register can be loaded with. -/
def Descriptor.loadable (d : Descriptor) : Bool := !d.tss && d.seg.present

/-- The segment register that loading the descriptor a selector names gives. -/
def segmentOf (s : State) (sel : W16) : Option SegReg :=
  ((descriptorOf s sel).filter Descriptor.loadable).map fun d => { d.seg with selector := sel }

/-- Setting a flag of a descriptor, as a locked operation: the lock is free afterwards (R92). -/
def lockedDescriptor (s : State) (sel : W16) (f : Descriptor → Descriptor) : State :=
  { updDescriptor s sel f with busLock := none }

/-- The error code an unusable selector gives (log 36). -/
def selectorCode (sel : W16) : Option W32 := some ((sel &&& 0xFFFC#16).setWidth 32)

/-- Loading a segment register from its descriptor sets the descriptor's accessed flag, as a locked operation, if it
is clear (R92 c). CS is not loaded so, and what a selector without a present descriptor does is log 36. Where the
flag is set already the load is no locked operation and waits for nothing (log 36). -/
def execMovSeg (r : Seg) (sel : W16) (len p : Nat) (x : Proc) (s : State) : Out :=
  let load (v : SegReg) (t : State) : Out := .next (t.setProc p ({ x with segs := x.segs.put r v }.advance len))
  if r = .cs then .next (raise s p x .ud none)
  else if x.mode = .realAddress ∨ x.mode = .virtual8086 then load ((x.segs.get r).ofSelector sel) s
  else
    match descriptorOf s sel with
    | none =>
      if sel &&& 0xFFFC#16 = 0#16 ∧ r ≠ .ss then load ((x.segs.get r).null sel) s
      else .next (raise s p x .gp (selectorCode sel))
    | some d =>
      if !d.loadable then .next (raise s p x .gp (selectorCode sel))
      else if d.accessed then load { d.seg with selector := sel } s
      else if lockFree s p x then
        load { d.seg with selector := sel }
          (lockedDescriptor s sel fun e => { e with accessed := true })
      else .next s

/-- A segment register of free content: what a task switch loads, from the n-th free word on (log 36). -/
def freeSeg (tick n : Nat) : SegReg :=
  let w := Config.taskWord tick n
  ⟨w.setWidth 16, Config.taskWord tick (n + 1), (w >>> 16).setWidth 32, w.getLsbD 48, w.getLsbD 49, w.getLsbD 50,
    w.getLsbD 51, w.getLsbD 52⟩

/-- A segment register of the task, from the n-th free word on: its selector is free, and what it holds is that of the
segment descriptor the selector names, where there is one (log 36). -/
def taskSeg (s : State) (n : Nat) : SegReg :=
  let v := freeSeg s.tick n
  (segmentOf s v.selector).getD v

/-- The six segment registers of the task. -/
def taskSegs (s : State) : SegRegs :=
  ⟨taskSeg s 30, taskSeg s 32, taskSeg s 34, taskSeg s 36, taskSeg s 38, taskSeg s 40⟩

/-- The segment descriptors of these are loaded, which sets their accessed flags (R92 c). -/
def markTaskSegs (s : State) : State :=
  let g := taskSegs s
  let sels := [g.cs, g.ds, g.ss, g.es, g.fs, g.gs].map (·.selector)
  { s with
    descriptors := s.descriptors.map fun d =>
      { d with accessed := d.accessed || (d.loadable && sels.contains d.selector) }
    busLock := none }

/-- The processor in the task it has switched to: the task register names its TSS, and what the TSS gives the other
registers is free (log 36). It is no jump of R125: old bytes may still be fetched (log 13). -/
def Proc.inTask (x : Proc) (tick : Nat) (sel : W16) (d : SegReg) (segs : SegRegs) : Proc :=
  let w := Config.taskWord tick
  { x with
    gpr := Vector.ofFn fun i => x.sized (w i.val)
    pc := x.sized (w 16)
    eflags := ⟨(w 17).getLsbD 0, (w 17).getLsbD 1, w 18⟩
    cr3 := w 19
    ldtr := ⟨(w 20).setWidth 16, w 21, (w 22).setWidth 32⟩
    tr := ⟨sel, d.base, d.limit⟩
    segs := segs
    cpl := (w 23).setWidth 2 }

/-- Switching to a task: the busy flag of its TSS descriptor is tested and set as one locked operation, so that two
processors do not switch to the same task (R92 b), and so are the accessed flags of the segments it loads (R92 c); a
busy or absent one is log 36. It changes CR3 (R26, R257), which may trigger the processor's own monitor (R266, log 17). -/
def execTaskSwitch (sel : W16) (p : Nat) (x : Proc) (s : State) : Out :=
  match descriptorOf s sel with
  | none => .next (raise s p x .gp (selectorCode sel))
  | some d =>
    if !d.tss || !d.seg.present then .next (raise s p x .gp (selectorCode sel))
    else if lockFree s p x then
      if d.busy then .next (raise s p x .gp (selectorCode sel))
      else .next (State.setProc (newCr3 (markTaskSegs (lockedDescriptor s sel fun e => { e with busy := true })) p) p
        ((x.inTask s.tick sel d.seg (taskSegs s)).maybeTrigger s.tick))
    else .next s

end Sys2Proof.Machine
end

