-- ==== Sys2Proof/Machine/Msr.lean ====
section
/-! DEFINITION. Reading and writing the model-specific registers (10_state.md R29 to R31, R40 to R43;
42_referenced_instructions.md R259; 60_exceptions.md R304, R307). -/

namespace Sys2Proof.Machine

open Sys2Proof

/-- Whether an MSR is one of the x2APIC MSRs, which exist in x2APIC mode (R29, R30, R304). -/
def Msr.isX2apic : Msr → Bool
  | .x2apic _ => true
  | .apicBase | .miscEnable | .biosSignId | .tscDeadline | .mcgStatus | .mcgCap | .mca _ | .pat | .mtrr _
  | .clockModulation | .thermal _ | .timeStamp | .debugCtl | .lbr _ | .perf _ | .monitorFilterLineSize
  | .efer => false

/-- Word n of a list of words, those that are not listed being 0. -/
def wordAt (l : List W64) (n : Nat) : W64 := l.getD n 0#64

/-- A list of words with word n changed. -/
def putWord : List W64 → Nat → W64 → List W64
  | [], 0, v => [v]
  | [], n + 1, v => 0#64 :: putWord [] n v
  | _ :: t, 0, v => v :: t
  | a :: t, n + 1, v => a :: putWord t n v

/-- The local APIC register an x2APIC MSR is, by its offset: 80FH, 830H and 837H (log 20). -/
def x2apicReg (k : Fin 62) : Option ApicReg :=
  if k = 0x0D then some .svr else if k = 0x2E then some .icrLow else if k = 0x35 then some .lvt3 else none

/-- An x2APIC MSR as RDMSR reads it: 802H, the x2APIC ID register, is the 32-bit APIC ID (R304); those of the
registers of R30 are these registers, with the stored upper half. -/
def readX2apic (s : State) (p : Nat) (x : Proc) (k : Fin 62) : W64 :=
  if k = 0 then (s.cfg.apicIdOf p).setWidth 64
  else match x2apicReg k with
    | some r => (storedMsr s p (.x2apic k) &&& 0xFFFFFFFF00000000#64) ||| (x.apic.read r).setWidth 64
    | none => storedMsr s p (.x2apic k)

/-- RDMSR's value; IA32_APIC_BASE holds the BSP flag (R29, R307); the last-branch-record stack is the processor's own
(R28, R29). -/
def readMsr (s : State) (p : Nat) (x : Proc) (m : Msr) : W64 :=
  match m with
  | .apicBase => (storedMsr s p .apicBase &&& ~~~bspBit) ||| (if x.bspFlag then bspBit else 0#64)
  | .x2apic k => readX2apic s p x k
  | .lbr n => wordAt x.lbr n
  | m => storedMsr s p m

/-- The destinations of an ICR value written in x2APIC mode: those of its shorthand, else the processors whose APIC
ID the upper half holds (log 20). -/
def x2apicDests (c : Config) (p : Nat) (v : W64) : List (Option Nat) :=
  if v.extractLsb' 18 2 = 0#2 ∧ v.getLsbD 11 = false then
    ((List.range c.nproc).filter fun q => c.apicIdOf q == v.extractLsb' 32 32).map some
  else ipiDests c p (v.setWidth 32)

/-- WRMSR of an x2APIC MSR: the ID register is not written (log 24), the ICR sends its message (R30, R305); one that
is none of R30's registers leaves LINT0 and LINT1 masked or not (R44, log 20). -/
def writeX2apic (s : State) (p : Nat) (k : Fin 62) (v : W64) : State :=
  if k = 0 then s
  else
    let s1 := storeMsr s p (.x2apic k) v
    match x2apicReg k with
    | some r =>
      let s2 := s1.updProc p fun x => { x with apic := x.apic.write r (v.setWidth 32) }
      if r = .icrLow then sendTo s2 (x2apicDests s.cfg p v) (v.setWidth 32) else s2
    | none => s1.updProc p fun x => { x with
        lint0Masked := Config.apicMasks s.tick 0
        lint1Masked := Config.apicMasks s.tick 1 }

/-- WRMSR's store: a shared bit reaches the core's one copy (R41); IA32_APIC_BASE also sets the BSP flag from bit 8
(R307) and, where the APIC supports it, x2APIC mode from bit 10 (R304, log 20); a word of the last-branch-record stack
is the processor's own (R28, R29, log 40). -/
def writeMsr (s : State) (p : Nat) (m : Msr) (v : W64) : State :=
  match m with
  | .x2apic k => writeX2apic s p k v
  | .apicBase => (storeMsr s p .apicBase v).updProc p fun x => { x with
      bspFlag := v &&& bspBit != 0#64
      x2apic := s.cfg.hasX2apic && v &&& x2apicBit != 0#64 }
  | .lbr n => s.updProc p fun x => { x with lbr := putWord x.lbr n v }
  | m => storeMsr s p m v

end Sys2Proof.Machine
end

