-- ==== Sys2Proof/Machine/Topology.lean ====
section
/-! DEFINITION. CPUID as a function of processor, EAX and ECX (10_state.md R37), and the selection and topology
functions of 60_exceptions.md R316 to R325 and R340. -/

namespace Sys2Proof.Machine

open Sys2Proof

/-! ## CPUID -/

/-- The four output registers of CPUID. -/
structure CpuidOut where
  eax : W32
  ebx : W32
  ecx : W32
  edx : W32
deriving DecidableEq, Repr

/-- A word with n bits from bit lo on replaced. -/
def putField (w : W32) (lo n : Nat) (v : W32) : W32 :=
  let mask : W32 := BitVec.ofNat 32 ((2 ^ n - 1) * 2 ^ lo)
  (w &&& ~~~mask) ||| ((v <<< lo) &&& mask)

/-- A flag as a one-bit field value. -/
def flagBit (b : Bool) : W32 := if b then 1#32 else 0#32

/-- The leaves that take ECX as an input (R252). -/
def usesSubleaf (leaf : W32) : Bool := leaf == 4#32 || leaf == 7#32 || leaf == 0x0B#32 || leaf == 0x1F#32

/-- The fields the source does not give, of a leaf of one processor (R252, log 23). -/
def cpuidOpen (p : Nat) (leaf sub : W32) : CpuidOut :=
  ⟨Config.cpuidField p leaf sub 0, Config.cpuidField p leaf sub 1,
   Config.cpuidField p leaf sub 2, Config.cpuidField p leaf sub 3⟩

/-- The same of a leaf that all processors of the system report alike (R323). -/
def cpuidOpenSystem (leaf sub : W32) : CpuidOut :=
  ⟨Config.cpuidSystemField leaf sub 0, Config.cpuidSystemField leaf sub 1,
   Config.cpuidSystemField leaf sub 2, Config.cpuidSystemField leaf sub 3⟩

/-- The signature in EAX of leaf 01H: stepping, model, family and extended model in bits 3:0, 7:4, 11:8 and 19:16
(R37; the places are the family's, log 23). -/
def putSignature (w : W32) (g : Signature) : W32 :=
  putField (putField (putField (putField w 0 4 (g.stepping.setWidth 32)) 4 4 (g.model.setWidth 32))
    8 4 (g.family.setWidth 32)) 16 4 (g.extModel.setWidth 32)

/-- Leaf 05H: the smallest and the largest monitor line size (R37, R268) in EAX[15:0] and EBX[15:0], the family's
places; of a size of 65536 and more its low 16 bits (log 23). -/
def monitorLeaf (o : CpuidOut) (bounds : Nat × Nat) : CpuidOut :=
  { o with
    eax := putField o.eax 0 16 (BitVec.ofNat 32 bounds.1)
    ebx := putField o.ebx 0 16 (BitVec.ofNat 32 bounds.2) }

/-- Leaf 0BH or 1FH from the levels it reports (R37, R318). An unsupported leaf has EBX = 0: of
leaf 0BH R317 says it, of leaf 1FH it is the model's choice (log 23). -/
def topoLeaf (o : CpuidOut) (levels : List TopoLevel) (supported : Bool) (id sub : W32) : CpuidOut :=
  if supported then
    match levels[sub.toNat]? with
    | some l => ⟨putField o.eax 0 5 (l.shift.setWidth 32),
        if o.ebx = 0#32 then 1#32 else o.ebx,
        putField (putField o.ecx 0 8 sub) 8 8 (l.levelType.setWidth 32), id⟩
    | none => ⟨o.eax, o.ebx, putField (putField o.ecx 0 8 sub) 8 8 0#32, id⟩
  else ⟨o.eax, 0#32, o.ecx, o.edx⟩

/-- CPUID (R37), ECX counting for four leaves alone (R252). "GenuineIntel" in EBX, EDX, ECX is the family's (log 23).
A line size that EBX[15:8] of leaf 01H cannot hold in units of 8 bytes reads as its low 8 bits (R7, log 23), an APIC ID
that EBX[31:24] cannot hold as its low 8 bits (R8, R315, log 23). A leaf above the maximum of leaf 0 answers as any other
(log 23). -/
def cpuid (c : Config) (p : Nat) (leaf ecx : W32) : CpuidOut :=
  let sub := if usesSubleaf leaf then ecx else 0#32
  let o := cpuidOpen p leaf sub
  if leaf = 0#32 then
    if c.genuineIntel then ⟨c.maxBasicLeaf, 0x756E6547#32, 0x6C65746E#32, 0x49656E69#32⟩
    else { o with eax := c.maxBasicLeaf }
  else if leaf = 1#32 then
    { o with
      eax := putSignature o.eax c.signature
      ebx := putField (putField (putField o.ebx 8 8 (BitVec.ofNat 32 (c.line / 8))) 16 8
        (c.maxLpIdsPerPackage.setWidth 32)) 24 8 (c.apicIdOf p)
      ecx := putField o.ecx 3 1 (flagBit c.hasMonitor)
      edx := putField (putField (putField (putField o.edx 19 1 (flagBit c.hasClfsh)) 25 1 (flagBit c.hasSse))
        26 1 (flagBit c.hasSse2)) 28 1 (flagBit c.hasHwMt) }
  else if leaf = 4#32 then
    let w := putField (cpuidOpenSystem leaf sub).eax 0 14 o.eax
    let e := match c.cacheSharing[sub.toNat]? with
      | some v => putField w 14 12 (v.setWidth 32)
      | none => w
    { o with eax := if sub = 0#32 then putField e 26 6 (c.maxCoreIdsPerPackageLess1.setWidth 32) else e }
  else if leaf = 5#32 then monitorLeaf o (c.monMin, c.monMax)
  else if leaf = 7#32 then
    if sub = 0#32 then
      { o with ebx := putField (putField o.ebx 23 1 (flagBit c.hasClflushopt)) 24 1 (flagBit c.hasClwb) }
    else o
  else if leaf = 0x0B#32 then topoLeaf (cpuidOpenSystem leaf sub) c.levels0B c.hasLeaf0B (c.apicIdOf p) sub
  else if leaf = 0x1F#32 then topoLeaf o c.levels1F (!c.levels1F.isEmpty) (c.apicIdOf p) sub
  else o

/-- CPUID as an instruction of processor p answers it: leaf 05H follows IA32_MONITOR_FILTER_LINE_SIZE (R29, R268). -/
def cpuidAt (s : State) (p : Nat) (leaf ecx : W32) : CpuidOut :=
  if leaf = 5#32 then monitorLeaf (cpuid s.cfg p leaf ecx) (monitorBounds s p) else cpuid s.cfg p leaf ecx

/-! ## Masks from leaves 1 and 4 (R320) -/

/-- HwMTSupported. -/
def hwMtSupported (c : Config) (p : Nat) : Bool :=
  c.genuineIntel && (cpuid c p 1#32 0#32).edx.getLsbD 28

/-- MaxLPIDsPerPackage. -/
def maxLpIdsPerPackage (c : Config) (p : Nat) : Nat :=
  if hwMtSupported c p then ((cpuid c p 1#32 0#32).ebx.extractLsb' 16 8).toNat else 1

/-- MaxCoreIDsPerPackage; leaf 4 is supported when leaf 0 reports it. -/
def maxCoreIdsPerPackage (c : Config) (p : Nat) : Nat :=
  if hwMtSupported c p && decide (4 ≤ (cpuid c p 0#32 0#32).eax.toNat) then
    ((cpuid c p 4#32 0#32).eax.extractLsb' 26 6).toNat + 1
  else 1

/-- GetInitAPIC_ID. -/
def initApicId (c : Config) (p : Nat) : Byte := (cpuid c p 1#32 0#32).ebx.extractLsb' 24 8

/-- FindMaskWidth: 0 where (c - 1) AND FFFFH is 0, else 1 more than the index of its highest set bit. -/
def findMaskWidth (c : W32) : Nat :=
  let m := ((c - 1#32) &&& 0xFFFF#32).toNat
  if m = 0 then 0 else m.log2 + 1

/-- The 8-bit mask of a sub-field of the width its maximum needs, from bit sh on. -/
def subMask (max : W32) (sh : Nat) : Byte := (0xFF#8 <<< sh) ^^^ (0xFF#8 <<< (sh + findMaskWidth max))

/-- GetSubID: not shifted right. -/
def getSubId (id : Byte) (max : W32) (sh : Nat) : Byte := id &&& subMask max sh

/-! ## Masks (R319 to R321) -/

/-- The masks of the three-level form (R319, R321). -/
structure TopoMasks where
  smt : W32
  core : W32
  package : W32
deriving DecidableEq, Repr

/-- The SMT width and the first bit of the package field from the two maxima of leaves 1 and 4 (R320). -/
def legacyShifts (maxLp maxCore : Nat) : Nat × Nat :=
  (findMaskWidth (BitVec.ofNat 32 (maxLp / maxCore)), findMaskWidth (BitVec.ofNat 32 maxLp))

/-- The masks of an 8-bit ID from these maxima: SMT_ID from bit 0, CORE_ID above it, the package above both
(R320). -/
def legacyMasksOf (maxLp maxCore : Nat) : TopoMasks :=
  let sh := legacyShifts maxLp maxCore
  ⟨(subMask (BitVec.ofNat 32 (maxLp / maxCore)) 0).setWidth 32,
   (subMask (BitVec.ofNat 32 maxCore) sh.1).setWidth 32,
   (0xFF#8 <<< sh.2).setWidth 32⟩

/-- These masks of a processor (R320). -/
def legacyMasks (c : Config) (p : Nat) : TopoMasks :=
  legacyMasksOf (maxLpIdsPerPackage c p) (maxCoreIdsPerPackage c p)

/-- The valid sub-leaves: those before the first of level type 0 (R318). -/
def validLevels (l : List TopoLevel) : List TopoLevel := l.takeWhile (·.levelType != 0#8)

/-- The sub-leaves with the level each extends: an unknown level type is an extension of the last known level
(R319). -/
def knownLevels (c : Config) (last : Byte) : List TopoLevel → List (Byte × Nat)
  | [] => []
  | l :: t =>
    let known := l.levelType == 1#8 || l.levelType == 2#8 || l.levelType == c.moduleType ||
      l.levelType == c.tileType || l.levelType == c.dieType
    let now := if known then l.levelType else last
    (now, l.shift.toNat) :: knownLevels c now t

/-- sh(T): the shift of the sub-leaf whose level type is T, or of the last one that extends it (R319); where the level
is not reported, that of the level below (R316). -/
def shiftOf (c : Config) (l : List TopoLevel) (t : Byte) (below : Nat) : Nat :=
  ((((knownLevels c 1#8 (validLevels l)).filter (·.1 == t)).getLast?).map (·.2)).getD below

/-- sh_last: the shift of the last valid sub-leaf (R319). -/
def lastShift (l : List TopoLevel) : Nat := (((validLevels l).getLast?).map (·.shift.toNat)).getD 0

/-- BitWidth[m]: the difference of neighbouring cumulative widths (R318). -/
def bitWidths (l : List TopoLevel) : List Nat :=
  let cum := (validLevels l).map (·.shift.toNat)
  cum.mapIdx fun m w => if m = 0 then w else w - cum.getD (m - 1) 0

/-- ~((-1) << k). -/
def lowMask (k : Nat) : W32 := ~~~(BitVec.allOnes 32 <<< k)

/-- Sub-leaf 0 is of type SMT; the listings fail otherwise (R319). -/
def startsWithSmt (l : List TopoLevel) : Bool := ((validLevels l).head?.map (·.levelType == 1#8)).getD false

/-- SMT_MASK, CORE_MASK and PACKAGE_MASK of the three-level form: the SMT mask is that of sub-leaf 0, every later level
counts as core (R319, Example 8-20), an unknown one next to SMT too, unlike in `dieMasks` (log 35). HwMTSupported is not
asked (log 35). -/
def topoMasks (l : List TopoLevel) : Option TopoMasks :=
  match validLevels l with
  | [] => none
  | a :: t =>
    if a.levelType = 1#8 then
      let smt := lowMask a.shift.toNat
      let last := ((a :: t).getLast?.getD a).shift.toNat
      some ⟨smt, lowMask last ^^^ smt, BitVec.allOnes 32 <<< last⟩
    else none

/-- The masks of Example 8-18. -/
structure DieMasks where
  smt : W32
  corePlusSmt : W32
  diePlusCore : W32
  core : W32
  die : W32
  package : W32
deriving DecidableEq, Repr

/-- The masks of Example 8-18 (R319). A level that is not reported has no bits of its own (R316); an unknown level next to
SMT extends SMT, and HwMTSupported is not asked (log 35). -/
def dieMasks (c : Config) (l : List TopoLevel) : Option DieMasks :=
  if startsWithSmt l then
    let smt := shiftOf c l 1#8 0
    let core := shiftOf c l 2#8 smt
    let die := shiftOf c l c.dieType core
    some ⟨lowMask smt, lowMask core, lowMask die, lowMask core ^^^ lowMask smt, lowMask die ^^^ lowMask core,
      BitVec.allOnes 32 <<< lastShift l⟩
  else none

/-- The masks of a processor: from leaf 1FH where it is supported, which is preferred (R317), else from leaf 0BH,
else from leaves 1 and 4 (R321). HwMTSupported, at which the listings fail, is asked for leaves 1 and 4 alone
(log 35). -/
def masksOf (c : Config) (p : Nat) : Option TopoMasks :=
  if 0x1F ≤ c.maxBasicLeaf.toNat ∧ c.levels1F ≠ [] then topoMasks c.levels1F
  else if 0x0B ≤ c.maxBasicLeaf.toNat ∧ c.hasLeaf0B then topoMasks c.levels0B
  else some (legacyMasks c p)

/-- The three IDs of an APIC ID, not shifted (R321). -/
def topoIds (m : TopoMasks) (id : W32) : W32 × W32 × W32 := (id &&& m.smt, id &&& m.core, id &&& m.package)

/-- The same as zero-based values, as Tables 8-2 to 8-4 print them: package, core, SMT (R325). The core field begins
at the SMT width, the package field at `package`. -/
def zeroBasedIds (m : TopoMasks) (smtWidth package : Nat) (id : W32) : W32 × W32 × W32 :=
  ((id &&& m.package) >>> package, (id &&& m.core) >>> smtWidth, id &&& m.smt)

/-! ## The seven levels (R316) -/

/-- The sub-fields of an APIC ID, zero-based. -/
structure IdFields where
  smt : W32
  core : W32
  module : W32
  tile : W32
  die : W32
  package : W32
  cluster : W32
deriving DecidableEq, Repr

/-- The bits of an ID from bit lo up to bit hi. -/
def field (id : W32) (lo hi : Nat) : W32 := (id >>> lo) &&& lowMask (hi - lo)

/-- The seven sub-fields (R316): SMT, core, module, tile and die by the reported shifts, the package above the last
one, the cluster above the package field. -/
def idFields (c : Config) (l : List TopoLevel) (id : W32) : IdFields :=
  let smt := shiftOf c l 1#8 0
  let core := shiftOf c l 2#8 smt
  let mod := shiftOf c l c.moduleType core
  let tile := shiftOf c l c.tileType mod
  let die := shiftOf c l c.dieType tile
  let last := lastShift l
  ⟨field id 0 smt, field id smt core, field id core mod, field id mod tile, field id tile die,
    field id last (last + c.packageWidth), id >>> (last + c.packageWidth)⟩

/-! ## Early processors (R324) -/

/-- A single-core Intel Xeon processor's 8-bit ID. -/
structure XeonId where
  logical : BitVec 1
  package : BitVec 2
  cluster : BitVec 2
deriving DecidableEq, Repr

/-- Its fields: bit 0 the logical processor, bits 2:1 the package, bits 4:3 the cluster. -/
def xeonId (id : Byte) : XeonId := ⟨id.extractLsb' 0 1, id.extractLsb' 1 2, id.extractLsb' 3 2⟩

/-- Whether an ID is one that such a processor has: bit 0 is always 0 without Hyper-Threading Technology. -/
def validXeonId (hyperThreading : Bool) (id : Byte) : Bool := hyperThreading || (xeonId id).logical == 0#1

/-- A P6 family processor's 4-bit ID. -/
structure P6Id where
  processor : BitVec 2
  cluster : BitVec 2
deriving DecidableEq, Repr

/-- Its fields: bits 1:0 the processor, bits 3:2 the cluster; FH is no valid ID. -/
def p6Id (id : BitVec 4) : Option P6Id :=
  if id = 0xF#4 then none else some ⟨id.extractLsb' 0 2, id.extractLsb' 2 2⟩

/-- The names of the two logical processors of an Intel Xeon processor MP. -/
inductive XeonRole where
  | primary | secondary
deriving DecidableEq, Repr

/-- Logical processor 0 is the primary one, logical processor 1 the secondary one. -/
def xeonRole (id : Byte) : XeonRole := if (xeonId id).logical = 0#1 then .primary else .secondary

/-! ## Counting packages and cores (R322) -/

/-- A value put into its bucket: the processors that share it, as a bit mask. -/
def putBucket (buckets : List (W32 × Nat)) (v : W32) (p : Nat) : List (W32 × Nat) :=
  if buckets.any (·.1 == v) then buckets.map fun b => if b.1 == v then (b.1, b.2 ||| 2 ^ p) else b
  else buckets ++ [(v, 2 ^ p)]

/-- The buckets of equal values. -/
def bucketsOf (vs : List W32) : List (W32 × Nat) :=
  (vs.mapIdx fun p v => (p, v)).foldl (fun b e => putBucket b e.2 e.1) []

/-- What part (a) of Example 8-23 gathers of the started processors, in order. -/
structure Enumeration where
  packageId : List W32
  coreId : List W32
  smtId : List W32
deriving DecidableEq, Repr

/-- NumStartedLPs. -/
def Enumeration.numStartedLPs (e : Enumeration) : Nat := e.packageId.length

/-- Walking SystemAffinity, bit k for processor k: on each processor the APIC ID is read and its three IDs are
extracted (R321, R322 a). Nothing is gathered where the masks cannot be derived. -/
def enumerate (c : Config) (systemAffinity : Nat) : Enumeration :=
  let ids := ((List.range c.nproc).filter fun p => systemAffinity.testBit p).filterMap fun p =>
    (masksOf c p).map fun m => topoIds m (c.apicIdOf p)
  ⟨ids.map (·.2.2), ids.map (·.2.1), ids.map (·.1)⟩

/-- PackageNum is the length, the second components are PackageProcessorMask (R322 b). -/
def Enumeration.packages (e : Enumeration) : List (W32 × Nat) := bucketsOf e.packageId

/-- CoreNum and CoreProcessorMask: the key is PACKAGE_ID OR CORE_ID (R322 c). -/
def Enumeration.cores (e : Enumeration) : List (W32 × Nat) :=
  bucketsOf (List.zipWith (· ||| ·) e.packageId e.coreId)

/-! ## Selection of the BSP (R340) -/

/-- The mechanisms of R340. -/
inductive Selection where
  | apicBus | systemBusMessages | specialCycle | platform
deriving DecidableEq, Repr

/-- The generation of a CPUID signature (R340); none where no row holds it. -/
def selectionOf (g : Signature) : Option Selection :=
  if g.family.toNat < 6 then some .apicBus
  else if g.family = 6#4 then
    if g.extModel = 0#4 then (if g.model.toNat ≤ 0x0D then some .apicBus else some .specialCycle) else some .platform
  else if g.family = 0xF#4 then
    if g.model = 0#4 ∧ g.stepping.toNat ≤ 9 then some .systemBusMessages else some .specialCycle
  else none

/-- The signature in EAX of leaf 01H (R340). -/
def signatureOf (eax : W32) : Signature :=
  ⟨eax.extractLsb' 8 4, eax.extractLsb' 4 4, eax.extractLsb' 0 4, eax.extractLsb' 16 4⟩

/-- The selection mechanism of a processor, by its CPUID signature (R340). -/
def selectionAt (c : Config) (p : Nat) : Option Selection := selectionOf (signatureOf (cpuid c p 1#32 0#32).eax)

end Sys2Proof.Machine
end

