-- ==== Sys2Proof/Machine/Serializing.lean ====
section
/-! DEFINITION. The serializing instructions and the accesses to control, debug, table and model-specific
registers (42_referenced_instructions.md section 2). -/

namespace Sys2Proof.Machine

open Sys2Proof

/-- A privileged step above CPL 0: #GP(0) (R300). -/
def privileged (p : Nat) (x : Proc) (s : State) (go : Out) : Out :=
  if x.cpl = 0#2 then go else .next (raise s p x .gp (some 0#32))

/-- The processors of p's core (R251). -/
def siblings (c : Config) (p : Nat) : List Nat := (List.range c.nproc).filter fun q => coreOf c q == coreOf c p

/-- Whether the queue of a processor is empty. -/
def queueEmpty (s : State) (q : Nat) : Bool := ((s.procs[q]?).map (·.queue.isEmpty)).getD true

/-- What was fetched earlier is discarded (R250). -/
def Proc.settle (x : Proc) : Proc := { x with stale := [] }

/-- `Serialize(kind)` of one processor (R250): it waits until Q_p is empty, then has its effect. -/
def serialize (p : Nat) (x : Proc) (s : State) (go : Proc → State → Out) : Out :=
  if x.queue.isEmpty then go x.settle (s.setProc p x.settle) else .next s

/-- `Serialize(kind)` of every processor of the core: WBINVD, INVD, WRMSR, and MOV to CR0 that changes CD
(R251). While it waits, the other processors of the core execute nothing, so that their queues empty (R147). -/
def serializeCore (p : Nat) (x : Proc) (s : State) (go : Proc → State → Out) : Out :=
  if x.queue.isEmpty && (siblings s.cfg p).all (queueEmpty s) then
    let y : Proc := { x.settle with serializing := false }
    go y ((siblings s.cfg p).foldl (fun t q => t.updProc q Proc.settle) (s.setProc p y))
  else .next (s.setProc p { x with serializing := true })

/-! ## CPUID and the cache -/

/-- CPUID (R252): EAX, EBX, ECX and EDX are written, zero-extended (log 22). -/
def execCpuid (len p : Nat) (x : Proc) (s : State) : Out :=
  serialize p x s fun x s =>
    let o := cpuidAt s p ((x.reg .rax).setWidth 32) ((x.reg .rcx).setWidth 32)
    .next (s.setProc p (((((x.setReg .rax (o.eax.setWidth 64)).setReg .rbx (o.ebx.setWidth 64)).setReg .rcx
      (o.ecx.setWidth 64)).setReg .rdx (o.edx.setWidth 64)).advance len))

/-- WBINVD (R253): every line is flushed, as one step; a flushed line triggers a monitor or not (U23). It does
not wait for the bus lock (log 32). -/
def execWbinvd (len p : Nat) (x : Proc) (s : State) : Out :=
  privileged p x s <| serializeCore p x s fun _ s =>
    .next ((s.listedLines.foldl performFlush s).updProc p (·.advance len))

/-- INVD (R254): modified data is lost; an invalidated line triggers a monitor or not (N10, log 17). It does not
wait for the bus lock (log 32). -/
def execInvd (len p : Nat) (x : Proc) (s : State) : Out :=
  privileged p x s <| serializeCore p x s fun _ s =>
    .next ((s.listedLines.foldl (fun t l => flushMonitors (dropLine t l) l) s).updProc p (·.advance len))

/-! ## Translations -/

/-- INVLPG (R258): the processor's own cached translations that cover the address are dropped, global ones too
(log 1). The address is not checked (log 28). -/
def execInvlpg (a : AddrExpr) (len p : Nat) (x : Proc) (s : State) : Out :=
  privileged p x s <| serialize p x s fun x s =>
    .next ((dropTlb s p (·.covers (x.linearOf a).toNat)).setProc p ((x.maybeTrigger s.tick).advance len))

/-- INVEPT: its serialization; the source gives no other effect (R259, R298). -/
def execInvept (len p : Nat) (x : Proc) (s : State) : Out :=
  privileged p x s <| serialize p x s fun x s => .next (s.setProc p ((x.maybeTrigger s.tick).advance len))

/-- INVVPID: its serialization; the source gives no other effect (R259, R298). -/
def execInvvpid (len p : Nat) (x : Proc) (s : State) : Out :=
  privileged p x s <| serialize p x s fun x s => .next (s.setProc p ((x.maybeTrigger s.tick).advance len))

/-! ## Tables -/

/-- LGDT (R27, R259). -/
def execLgdt (v : TableReg) (len p : Nat) (x : Proc) (s : State) : Out :=
  privileged p x s <| serialize p x s fun x s => .next (s.setProc p ({ x with gdtr := v }.advance len))

/-- LIDT (R27, R259). -/
def execLidt (v : TableReg) (len p : Nat) (x : Proc) (s : State) : Out :=
  privileged p x s <| serialize p x s fun x s => .next (s.setProc p ({ x with idtr := v }.advance len))

/-- LLDT (R27, R259). -/
def execLldt (v : TableReg) (len p : Nat) (x : Proc) (s : State) : Out :=
  privileged p x s <| serialize p x s fun x s => .next (s.setProc p ({ x with ldtr := v }.advance len))

/-- LTR (R27, R259); the TSS descriptor its selector names becomes busy as a locked operation, which waits for the bus
lock (R92 b, log 36). -/
def execLtr (v : TableReg) (len p : Nat) (x : Proc) (s : State) : Out :=
  privileged p x s <|
    if ((descriptorOf s v.selector).map (·.tss)).getD false then
      if lockFree s p x then
        serialize p x s fun x s =>
          .next ((lockedDescriptor s v.selector fun d => { d with busy := true }).setProc p
            ({ x with tr := v }.advance len))
      else .next s
    else serialize p x s fun x s => .next (s.setProc p ({ x with tr := v }.advance len))

/-! ## Control and debug registers -/

/-- CR0 as MOV leaves it: a change of PG is in force at once, or after the next jump on an older processor
(R256). -/
def Proc.setCr0 (x : Proc) (v : Cr0) (needsJump : Bool) : Proc :=
  { x with cr0 := v, pgInForce := if needsJump then x.pgInForce else v.pg }

/-- The effect of MOV to CR0; a change of PG drops the processor's cached translations (R256, R266, log 1). Every value
is legal (log 28). -/
def movCr0Effect (v : Cr0) (len p : Nat) (x : Proc) (s : State) : Out :=
  let s1 := if v.pg = x.cr0.pg then s else dropTlb s p fun _ => true
  .next (s1.setProc p (((x.setCr0 v s.cfg.cr0PgNeedsJump).maybeTrigger s.tick).advance len))

/-- MOV to CR0 (R255, R256): a change of CD serializes every processor of the core. -/
def execMovCr0 (v : Cr0) (len p : Nat) (x : Proc) (s : State) : Out :=
  privileged p x s <|
    if v.cd = x.cr0.cd then serialize p x s (movCr0Effect v len p) else serializeCore p x s (movCr0Effect v len p)

/-- MOV to CR3 (R257, R258): the processor's cached translations that are not global are dropped. Every value is
legal (log 28). -/
def execMovCr3 (v : Src) (len p : Nat) (x : Proc) (s : State) : Out :=
  privileged p x s <| serialize p x s fun x s =>
    .next ((newCr3 s p).setProc p (({ x with cr3 := x.src v }.maybeTrigger s.tick).advance len))

/-- MOV to CR4 (R258): the processor's cached translations are dropped. Every value is legal (log 28). -/
def execMovCr4 (v : Cr4) (len p : Nat) (x : Proc) (s : State) : Out :=
  privileged p x s <| serialize p x s fun x s =>
    .next ((dropTlb s p fun _ => true).setProc p (({ x with cr4 := v }.maybeTrigger s.tick).advance len))

/-- MOV to CR8: not serializing (R251). -/
def execMovCr8 (v : Src) (len p : Nat) (x : Proc) (s : State) : Out :=
  privileged p x s <| .next (s.setProc p ({ x with cr8 := x.src v }.advance len))

/-- A debug register written: DR0 to DR3, DR6, DR7, numbered 0 to 5 (R28). -/
def DebugRegs.put (d : DebugRegs) (n : Fin 6) (v : W64) : DebugRegs :=
  match n with
  | 0 => { d with dr0 := v }
  | 1 => { d with dr1 := v }
  | 2 => { d with dr2 := v }
  | 3 => { d with dr3 := v }
  | 4 => { d with dr6 := v }
  | 5 => { d with dr7 := v }

/-- MOV to a debug register (R28, R250). -/
def execMovDr (n : Fin 6) (v : Src) (len p : Nat) (x : Proc) (s : State) : Out :=
  privileged p x s <| serialize p x s fun x s =>
    .next (s.setProc p ({ x with dr := x.dr.put n (x.src v) }.advance len))

/-! ## Model-specific registers -/

/-- WRMSR to these does not serialize (R251). -/
def Msr.nonSerializing (m : Msr) : Bool := m == .tscDeadline || m.isX2apic

/-- An x2APIC MSR outside x2APIC mode: #GP(0) (R30, log 20). -/
def msrExists (m : Msr) (p : Nat) (x : Proc) (s : State) (go : Out) : Out :=
  if m.isX2apic && !x.x2apic then .next (raise s p x .gp (some 0#32)) else go

/-- The effect of WRMSR (R259); its operand is one register or constant, of 32 bits outside 64-bit mode (log 24). -/
def wrmsrEffect (m : Msr) (v : Src) (len p : Nat) (x : Proc) (s : State) : Out :=
  msrExists m p x s <| .next ((writeMsr (s.setProc p ((x.maybeTrigger s.tick).advance len)) p m (x.src v)))

/-- WRMSR (R251, R259): it serializes every processor of the core, but for the two cases of R251. -/
def execWrmsr (m : Msr) (v : Src) (len p : Nat) (x : Proc) (s : State) : Out :=
  privileged p x s <|
    if m.nonSerializing then wrmsrEffect m v len p x s else serializeCore p x s (wrmsrEffect m v len p)

/-- RDMSR (R259): privileged and serializing, as one of the instructions that rule lists; its result is one
register (log 24). -/
def execRdmsr (m : Msr) (r : Gpr) (len p : Nat) (x : Proc) (s : State) : Out :=
  privileged p x s <| serialize p x s fun x s =>
    msrExists m p x s <| .next (s.setProc p ((x.put r (readMsr s p x m)).advance len))

/-! ## Returns from a handler -/

/-- IRET (R250, R295): serializing, then the interrupted program continues. -/
def execIret (p : Nat) (x : Proc) (s : State) : Out :=
  serialize p x s fun x s => .next (s.setProc p (x.leaveHandler s.tick))

/-- RSM (R250, R295): serializing, then the interrupted program continues. -/
def execRsm (p : Nat) (x : Proc) (s : State) : Out :=
  serialize p x s fun x s => .next (s.setProc p (x.leaveHandler s.tick))

end Sys2Proof.Machine
end

