-- ==== Sys2Proof/Machine/Strings.lean ====
section
/-! DEFINITION. STOS and MOVS, alone and with REP where fast-string operation is disabled
(42_referenced_instructions.md R246, 20_memory.md R121 to R123), the string forms of I/O (R244), and non-temporal
stores (R245). One step is one element. -/

namespace Sys2Proof.Machine

open Sys2Proof

/-- The address size of a string instruction without prefixes. -/
def Proc.stringSize (x : Proc) : AddrSize := addrSizeOf x.decodeEnv ⟨[], none⟩

/-- A register written with an address size: the low 16 bits alone, or zero-extended (log 31). -/
def putSized (a : AddrSize) (old new : W64) : W64 :=
  match a with
  | .a16 => (old &&& ~~~0xFFFF#64) ||| (new &&& 0xFFFF#64)
  | .a32 => new &&& 0xFFFFFFFF#64
  | .a64 => new

/-- A pointer after an iteration: it moves by the element size, down when the direction flag is set. -/
def Proc.bump (x : Proc) (r : Gpr) (n : Nat) : Proc :=
  let v := x.get r
  x.put r (putSized x.stringSize v
    (if x.eflags.dirFlag then v - BitVec.ofNat 64 n else v + BitVec.ofNat 64 n))

/-- The count after an iteration; the instruction is left when it reaches zero (R246). -/
def Proc.countDown (x : Proc) (len : Nat) : Proc :=
  let v := putSized x.stringSize (x.get .rcx) (x.get .rcx - 1#64)
  let y := x.put .rcx v
  if truncTo x.stringSize v = 0#64 then y.advance len else y

/-- A string instruction with REP: over when the count is zero (R246). -/
def repStep (len p : Nat) (x : Proc) (s : State) (go : Out) : Out :=
  if truncTo x.stringSize (x.reg .rcx) = 0#64 then .next (s.setProc p (x.advance len)) else go

/-- STOS or MOVS with REP: refused with fast strings enabled (R149). -/
def stringStep (len p : Nat) (x : Proc) (s : State) (go : Out) : Out :=
  if s.cfg.fastStrings then .refused .fastString else repStep len p x s go

/-- The addresses of one string element at ES:DI or DS:SI. -/
def withElement (s : State) (p : Nat) (x : Proc) (seg : Seg) (r : Gpr) (n : Nat) (acc : Access)
    (k : State → List Nat → Out) : Out :=
  match linear s.cfg x seg (truncTo x.stringSize (x.reg r)) n false with
  | .exc e code => .next (raise s p x e code)
  | .ok la => withAddresses s p x la n acc k

/-- One element of STOS: a store of the low bytes of RAX at ES:RDI, the pointer moved, then `fin` (R246). -/
def stosElement (w : Width) (fin : Proc → Proc) (p : Nat) (x : Proc) (s : State) : Out :=
  withElement s p x .es .rdi w.bytes .write fun t pas =>
    if ucPending s.cfg x then .next s
    else .next (t.setProc p (fin ((x.storeBytes s pas (x.get .rax)).bump .rdi w.bytes)))

/-- One element of MOVS: a load from DS:RSI and a store at ES:RDI, the pointers moved, then `fin` (R246). -/
def movsElement (w : Width) (fin : Proc → Proc) (p : Nat) (x : Proc) (s : State) : Out :=
  withElement s p x .ds .rsi w.bytes .read fun t pas =>
    match loadBytes s p x pas with
    | .wait => .next s
    | .more split => .next (t.setProc p { x with split := split })
    | .value v =>
      withElement t p { x with split := [] } .es .rdi w.bytes .write fun t pas =>
        .next (t.setProc p
          (fin ((({ x with split := [] }.storeBytes s pas v).bump .rsi w.bytes).bump .rdi w.bytes)))

/-- STOS: one element, no count (R246). -/
def execStos (w : Width) (len p : Nat) (x : Proc) (s : State) : Out := stosElement w (·.advance len) p x s

/-- MOVS: one element, no count (R246). -/
def execMovs (w : Width) (len p : Nat) (x : Proc) (s : State) : Out := movsElement w (·.advance len) p x s

/-- REP STOS: one iteration (R246). -/
def execRepStos (w : Width) (len p : Nat) (x : Proc) (s : State) : Out :=
  stringStep len p x s (stosElement w (·.countDown len) p x s)

/-- REP MOVS: one iteration (R246). -/
def execRepMovs (w : Width) (len p : Nat) (x : Proc) (s : State) : Out :=
  stringStep len p x s (movsElement w (·.countDown len) p x s)

/-! ## The string forms of I/O (R244, log 39) -/

/-- The port of a string input or output: DX, the family's. -/
def Proc.ioPort (x : Proc) : W16 := (x.get .rdx).setWidth 16

/-- An I/O access joins those made so far, in programmed order (R244). -/
def State.noteIo (s : State) (p : Nat) (port : W16) (output : Option W64) : State :=
  { s with ioTrace := s.ioTrace ++ [⟨p, port, output⟩] }

/-- One element of a string input: a value of the platform stored at ES:RDI; when the store has left Q_p, so that the
element leaves Q_p empty (R146), the pointer moved, then `fin`. The port access does not wait for the bus lock
(log 28). -/
def insElement (w : Width) (fin : Proc → Proc) (p : Nat) (x : Proc) (s : State) : Out :=
  if x.ioStore then .next (s.setProc p (fin (({ x with ioStore := false }).bump .rdi w.bytes)))
  else
    withElement s p x .es .rdi w.bytes .write fun t pas =>
      .next ((t.noteIo p x.ioPort none).setProc p
        { x.storeBytes s pas (Config.ioInput s.tick) with ioStore := true })

/-- One element of a string output: a load from DS:RSI put out, the pointer moved, then `fin`. -/
def outsElement (w : Width) (fin : Proc → Proc) (p : Nat) (x : Proc) (s : State) : Out :=
  withElement s p x .ds .rsi w.bytes .read fun t pas =>
    match loadBytes s p x pas with
    | .wait => .next s
    | .more split => .next (t.setProc p { x with split := split })
    | .value v => .next ((t.noteIo p x.ioPort (some v)).setProc p
        (fin (({ x with split := [] }).bump .rsi w.bytes)))

/-- A string form of I/O: an element, or an iteration with REP, each once Q_p is empty (R244). -/
def ioString (element : (Proc → Proc) → Out) (rep : Bool) (len p : Nat) (x : Proc) (s : State) : Out :=
  if !x.queue.isEmpty then .next s
  else if rep then repStep len p x s (element (·.countDown len))
  else element (·.advance len)

/-- String input (R244). -/
def execIns (w : Width) (rep : Bool) (len p : Nat) (x : Proc) (s : State) : Out :=
  ioString (fun fin => insElement w fin p x s) rep len p x s

/-- String output (R244). -/
def execOuts (w : Width) (rep : Bool) (len p : Nat) (x : Proc) (s : State) : Out :=
  ioString (fun fin => outsElement w fin p x s) rep len p x s

/-- A non-temporal store: refused (R149, R245). -/
def execNtStore : Out := .refused .nonTemporalStore

end Sys2Proof.Machine
end

