-- ==== Sys2Proof/Machine/Waiting.lean ====
section
/-! DEFINITION. HLT, PAUSE, CLI, STI, MONITOR and MWAIT (42_referenced_instructions.md section 3). -/

namespace Sys2Proof.Machine

open Sys2Proof

/-- HLT (R260), at every CPL (log 24). -/
def execHlt (len p : Nat) (x : Proc) (s : State) : Out :=
  .next (s.setProc p ({ x with activity := .halted }.advance len))

/-- PAUSE changes nothing but pc (R261), at every CPL (log 24). -/
def execPause (len p : Nat) (x : Proc) (s : State) : Out := .next (s.setProc p (x.advance len))

/-- CLI (R262), at every CPL (log 24). -/
def execCli (len p : Nat) (x : Proc) (s : State) : Out :=
  .next (s.setProc p ({ x with eflags := clearIf x.eflags }.advance len))

/-- STI (R262), at every CPL (log 24). -/
def execSti (len p : Nat) (x : Proc) (s : State) : Out :=
  .next (s.setProc p ({ x with eflags := setIf x.eflags }.advance len))

/-- Whether MONITOR and MWAIT are available (R267). -/
def monitorAvailable (c : Config) (x : Proc) : Bool := c.hasMonitor && (x.cpl == 0#2 || c.monitorAtCpl3)

/-- The monitored size: a power of two between the smallest and the largest monitor line size, unknown to software
(R263, R268). -/
def monitorSizeOf (s : State) (p : Nat) : Nat :=
  let b := monitorBounds s p
  2 ^ (b.1.log2 + Config.monitorSize s.tick % (b.2.log2 - b.1.log2 + 1))

/-- The monitor hardware after MONITOR on a physical address: armed on the range aligned there (log 17), or, where some of
that range is not write-back memory, perhaps not armed (R263). -/
def monitorAfter (s : State) (p : Nat) (before : Monitor) (pa : Nat) : Monitor :=
  let n := monitorSizeOf s p
  let lo := pa / n * n
  if (List.range n).all (fun i => memType s.cfg (lo + i) == .wb) || Config.monitorArms s.tick then .armed lo n
  else before

/-- MONITOR (R263, R267). Its address is translated as one byte read (log 28); the memory there is not
accessed, and no pending UC write is waited for (log 32). ECX and EDX do not count (log 28). -/
def execMonitor (a : AddrExpr) (len p : Nat) (x : Proc) (s : State) : Out :=
  if monitorAvailable s.cfg x then
    match translateBytes s p x .read (x.linearOf a) 1 with
    | .exc e code t => .next (raise { s with tables := t } p x e code)
    | .ok pas t => .next (State.setProc { s with tables := t } p
        ({ x with monitor := monitorAfter s p x.monitor (pas.headD 0) }.advance len))
  else .next (raise s p x .unidentified none)

/-- MWAIT (R264, R267): a NOP when the monitor is triggered, else the processor waits. EAX and ECX do not count
(log 28). -/
def execMwait (len p : Nat) (x : Proc) (s : State) : Out :=
  if monitorAvailable s.cfg x then
    match x.monitor with
    | .triggered => .next (s.setProc p (x.advance len))
    | .armed _ _ => .next (s.setProc p ({ x with activity := .mwaitWait }.advance len))
  else .next (raise s p x .unidentified none)

end Sys2Proof.Machine
end

