-- ==== Sys2Proof/Machine/Referenced.lean ====
section
/-! DEFINITION. One arm per abstract step of 42_referenced_instructions.md R240. -/

namespace Sys2Proof.Machine

open Sys2Proof

/-- The effect of an abstract step of len bytes on processor p in state x (R240). -/
def execStep (e : AbsStep) (len p : Nat) (x : Proc) (s : State) : Out :=
  match e with
  | .load r a n => execLoad r a n len p x s
  | .store a n v => execStore a n v len p x s
  | .movReg r v => execMovReg r v len p x s
  | .addReg r v => execAddReg r v len p x s
  | .andReg r v => execAndReg r v len p x s
  | .orReg r v => execOrReg r v len p x s
  | .xchg a r n => execXchg a r n len p x s
  | .locked f a n => execLocked f a n len p x s
  | .lockInvalid => execLockInvalid p x s
  | .ioIn port r => execIoIn port r len p x s
  | .ioOut port v => execIoOut port v len p x s
  | .ins n rep => execIns n rep len p x s
  | .outs n rep => execOuts n rep len p x s
  | .jump t => execJump t p x s
  | .jumpIf c t => execJumpIf c t len p x s
  | .hlt => execHlt len p x s
  | .pause => execPause len p x s
  | .cli => execCli len p x s
  | .sti => execSti len p x s
  | .monitor a => execMonitor a len p x s
  | .mwait => execMwait len p x s
  | .cpuid => execCpuid len p x s
  | .wbinvd => execWbinvd len p x s
  | .invd => execInvd len p x s
  | .invlpg a => execInvlpg a len p x s
  | .invept => execInvept len p x s
  | .invvpid => execInvvpid len p x s
  | .lgdt v => execLgdt v len p x s
  | .lidt v => execLidt v len p x s
  | .lldt v => execLldt v len p x s
  | .ltr v => execLtr v len p x s
  | .movCr0 v => execMovCr0 v len p x s
  | .movCr3 v => execMovCr3 v len p x s
  | .movCr4 v => execMovCr4 v len p x s
  | .movCr8 v => execMovCr8 v len p x s
  | .movDr n v => execMovDr n v len p x s
  | .wrmsr m v => execWrmsr m v len p x s
  | .rdmsr m r => execRdmsr m r len p x s
  | .iret => execIret p x s
  | .rsm => execRsm p x s
  | .movSeg r sel => execMovSeg r sel len p x s
  | .taskSwitch sel => execTaskSwitch sel p x s
  | .stos n => execStos n len p x s
  | .movs n => execMovs n len p x s
  | .repStos n => execRepStos n len p x s
  | .repMovs n => execRepMovs n len p x s
  | .ntStore => execNtStore

/-- Whether an abstract step that completes puts an address of its own into pc, and does not move it past itself
(R247, R295). -/
def AbsStep.transfers (x : Proc) : AbsStep → Bool
  | .jump _ | .iret | .rsm | .taskSwitch _ => true
  | .jumpIf c _ => x.holds c
  | .load _ _ _ | .store _ _ _ | .movReg _ _ | .addReg _ _ | .andReg _ _ | .orReg _ _ | .xchg _ _ _
  | .locked _ _ _ | .lockInvalid | .ioIn _ _ | .ioOut _ _ | .ins _ _ | .outs _ _ | .hlt | .pause | .cli | .sti
  | .monitor _ | .mwait | .cpuid | .wbinvd | .invd | .invlpg _ | .invept | .invvpid | .lgdt _ | .lidt _ | .lldt _
  | .ltr _ | .movCr0 _ | .movCr3 _ | .movCr4 _ | .movCr8 _ | .movDr _ _ | .wrmsr _ _ | .rdmsr _ _ | .movSeg _ _
  | .stos _ | .movs _ | .repStos _ | .repMovs _ | .ntStore => false

end Sys2Proof.Machine
end

