-- ==== Sys2Proof/Machine/Events.lean ====
section
/-! DEFINITION. The moves of the memory system, the caches, the TLBs and the environment (20_memory.md R141,
10_state.md R38, R44; 60_exceptions.md R297, R331 to R335), the running of one instruction, and the rotation that
an empty agenda falls back to. -/

namespace Sys2Proof.Machine

open Sys2Proof

/-! ## The caches by themselves (R141) -/

/-- Every byte of a line is backed memory of a type that allows speculative reads (R141 a). -/
def fillable (c : Config) (l : Nat) : Bool :=
  (List.range c.line).all fun i => isBacked c (l + i) && memType c (l + i) != .uc

/-- Fill: Invalid becomes Clean (R141 a). -/
def fillLine (s : State) (l : Nat) : State :=
  if s.lineState l = .invalid ∧ fillable s.cfg l ∧ cacheEnabled s then s.setLine l .clean else s

/-- Clean eviction: Clean becomes Invalid (R141 b). -/
def evictLine (s : State) (l : Nat) : State :=
  if s.lineState l = .clean then s.setLine l .invalid else s

/-- Spontaneous write-back, with the line dropped or kept (R141 c). -/
def spontaneousWriteBack (s : State) (l : Nat) (drop : Bool) : State :=
  if drop then flushLine s l else writeBackLine s l

/-! ## The TLBs (R38) -/

/-- A translation in force is cached. -/
def tlbFillOf (s : State) (p : Nat) (x : Proc) (la : W64) : State :=
  if x.pgInForce then
    match walk s x la.toNat with
    | some m => if m.present then { s with tlb := ⟨p, m⟩ :: s.tlb } else s
    | none => s
  else s

/-! ## Pins and errors -/

/-- The processors of a package changed by f (R309). -/
def onPackage (s : State) (package : Nat) (f : Proc → Proc) : List Proc :=
  s.procs.mapIdx fun p x => if packageOf s.cfg p = package then f x else x

/-- STPCLK# asserted or deasserted (R335). -/
def Proc.stopGrant (x : Proc) (on : Bool) : Proc :=
  match on, x.activity with
  | true, .running => { x with activity := .stopGrant .running }
  | true, .halted => { x with activity := .stopGrant .halted }
  | true, .mwaitWait => { x with activity := .stopGrant .mwaitWait }
  | false, .stopGrant .running => { x with activity := .running }
  | false, .stopGrant .halted => { x with activity := .halted }
  | false, .stopGrant .mwaitWait => { x with activity := .mwaitWait }
  | _, _ => x

/-- The pins of a package changed. -/
def withPins (s : State) (package : Nat) (f : Pins → Pins) : State := { s with pins := s.pins.modify package f }

/-- A queue entry once A20M# is asserted: its addresses have bit 20 zero. A write whose bytes then no longer follow one
another goes byte by byte (R81, R309, log 25). -/
def QEntry.clearA20 (c : Config) : QEntry → List QEntry
  | .w pa n v =>
    let pas := (List.range n).map fun i => Machine.clearA20 (pa + i)
    if consecutive pas then [.w (pas.headD pa) n v]
    else pas.mapIdx fun i a => .w a 1 ((byteOf v i).setWidth 64)
  | .cf l => [.cf (lineOf c (Machine.clearA20 l))]
  | .co l => [.co (lineOf c (Machine.clearA20 l))]
  | .cw l => [.cw (lineOf c (Machine.clearA20 l))]
  | .sf => [.sf]

/-- A20M# of a package: the addresses in the queues of its processors are masked when it is asserted (R81, R309). It
ends no MWAIT by itself; the move `wake` may (R266, log 25). -/
def a20Event (s : State) (package : Nat) (on : Bool) : State :=
  withPins { s with procs := onPackage s package fun x =>
      if on then { x with queue := x.queue.flatMap (QEntry.clearA20 s.cfg) } else x } package
    fun w => { w with a20m := on }

/-- LINT0 or LINT1 asserted at a processor: unmasked, it is a maskable or an unmaskable interrupt of a free vector
(R44, R309, log 25); the maskable one's vector is acknowledged only while no other processor holds the bus lock
(R92 e). -/
def Proc.takeLint (x : Proc) (s : State) (p : Nat) (one : Bool) : Proc :=
  if (if one then x.lint1Masked else x.lint0Masked) then x
  else if Config.lintMaskable s.tick p then
    if busHeld s p then x else x.takeMaskable (handlerOf s x (.vector (Config.lintVector s.tick p)))
  else x.takeUnmaskable (handlerOf s x .nmi)

/-- LINT0 or LINT1 of a package: when it is asserted both processors respond, unless STPCLK# is asserted (R309). -/
def lintEvent (s : State) (package : Nat) (one on : Bool) : State :=
  let s1 := withPins s package fun w => if one then { w with lint1 := on } else { w with lint0 := on }
  if on then
    { s1 with procs := s.procs.mapIdx fun p x =>
        if packageOf s.cfg p = package ∧ stopped s p = false then x.takeLint s p one else x }
  else s1

/-- A fatal machine-check error at one processor: the exception where CR4.MCE is set, shutdown where it is not
(R297, R334). A processor that is shut down or whose run has ended stays as it is. MCIP is not set (log 25). -/
def Proc.machineCheck (x : Proc) : Proc :=
  if x.activity = .shutdown ∨ x.ended ≠ none then x
  else if x.cr4.mce then { x with ended := some ⟨.mc, none, x.pc⟩ }
  else { x with activity := .shutdown }

/-- IERR# is asserted when a processor of the package shuts down (R297). -/
def anyMceClear (s : State) (package : Nat) : Bool :=
  (s.procs.mapIdx fun p x =>
    packageOf s.cfg p == package && !x.cr4.mce && x.activity != .shutdown && x.ended == none).any id

/-- RESET of the whole system (R44, R47, R350 to R354): every processor as after power-up; the memory, the tables
and the placed programs stay, Coh = Mem, every line Invalid. -/
def resetSystem (s : State) : State :=
  { State.resetWith s.cfg with
    procs := (procsAtReset s.cfg).mapIdx fun p x => { x with program := ((s.procs[p]?).map (·.program)).getD [] }
    coh := s.mem
    mem := s.mem
    tables := s.tables
    descriptors := s.descriptors
    ioTrace := s.ioTrace
    agenda := s.agenda
    turn := s.turn
    tick := s.tick }

/-- The BIPI of a processor to all including self (R306, R352 step 2). -/
def bipiOf (c : Config) (p : Nat) : List Ipi :=
  match bipiVector (shortId c p) with
  | some v => bootIpis c p (.bipi v)
  | none => []

/-- RESET with the selection by BIPI and FIPI to come (R352): no BSP flag is set, every processor has broadcast its
BIPI, and the arbitration lets that of the processor BSP_INDEX be handled first. -/
def resetArbitrating (s : State) : State :=
  let t := resetSystem s
  { t with
    procs := t.procs.map fun x => { x with bspFlag := false, activity := .waitForSipi, boot := .arbitrating }
    ipis := bipiOf s.cfg s.cfg.bspIndex ++
      ((List.range s.cfg.nproc).filter (· != s.cfg.bspIndex)).flatMap (bipiOf s.cfg) }

/-- Whether processors of this signature select the BSP by BIPI and FIPI (R340, rows 1 and 2). -/
def arbitratesByIpi (c : Config) : Bool :=
  selectionOf c.signature == some .apicBus || selectionOf c.signature == some .systemBusMessages

/-! ## One instruction -/

/-- The instruction of processor p runs: an abstract step where one is placed at pc, else the decoded
instruction; longer than 15 bytes is #GP(0) (R163). A store over the address of an abstract step does not change the
step, which has no bytes (R240, log 10). It is found by its linear pc, and no translation of its bytes is
looked at (log 10). One that ends at the top of the address space is executed (`endAtWrap`, log 12). -/
def runInstr (s : State) (p : Nat) (x : Proc) : Out :=
  match x.program.find? (·.pc == x.pc) with
  | some e =>
    match stepStop s.cfg x e.length with
    | some r => .refused r
    | none =>
      if e.step.transfers x then execStep e.step e.length p x s
      else endAtWrap p x e.length (execStep e.step e.length p x s)
  | none =>
    match fetchInstr s p x with
    | .instr i => endAtWrap p x i.length (exec i s)
    | .tooLong => .next (raise s p x .gp (some 0#32))
    | .stop r => .refused r

/-- Whether a processor executes instructions: it is Running, and its run has not ended by a fault or at something
the model refuses (R144, R292, R378). -/
def Proc.runnable (x : Proc) : Bool := x.activity == .running && x.ended == none && x.refusal == none

/-- Another processor of p's core waits to serialize the core, and p does not (R147, R251). -/
def heldBySibling (s : State) (p : Nat) (x : Proc) : Bool :=
  !x.serializing && (siblings s.cfg p).any fun q =>
    q != p && ((s.procs[q]?).map fun y => y.serializing && y.runnable && !stopped s q).getD false

/-- Processor p executes its next instruction, if it can (R144, R292, R309); where the model refuses it, its run ends
and the others go on (R378). -/
def runProc (s : State) (p : Nat) : Out :=
  match s.procs[p]? with
  | none => .fault .noSuchProcessor
  | some x =>
    if x.runnable && !stopped s p && !heldBySibling s p x then
      contain { s with cur := p } p (runInstr { s with cur := p } p x)
    else .next { s with cur := p }

/-! ## Every move -/

/-- Processor p's state changed by f, if there is a processor p. -/
def onProc (s : State) (p : Nat) (f : Proc → Proc) : Out :=
  match s.procs[p]? with
  | none => .fault .noSuchProcessor
  | some x => .next (s.setProc p (f x))

/-- A processor in the MWAIT state leaves it for any reason (R266). -/
def Proc.wake (x : Proc) : Proc := if x.activity = .mwaitWait then x.trigger else x

/-- The same for an event that a processor does not respond to while STPCLK# is asserted (R294, R309, log 25). -/
def unlessStopped (s : State) (p : Nat) (f : Proc → Proc) : Out := onProc s p fun x => if stopped s p then x else f x

/-- A move (R141, R145, R305, R331 to R335). An event of the environment that a processor cannot take is lost
(log 25); an interrupt is acknowledged only while no other processor holds the bus lock (R92 e). -/
def doEvent (s : State) (e : Event) : Out :=
  match e with
  | .exec p => runProc s p
  | .perform p i => perform s p i
  | .fill pa => .next (fillLine s (lineOf s.cfg pa))
  | .evict pa => .next (evictLine s (lineOf s.cfg pa))
  | .writeBack pa drop => .next (spontaneousWriteBack s (lineOf s.cfg pa) drop)
  | .tlbFill p la =>
    match s.procs[p]? with
    | none => .fault .noSuchProcessor
    | some x => .next (tlbFillOf s p x la)
  | .tlbDrop p la => .next (dropTlb s p (·.covers la.toNat))
  | .deliver p => deliver s p
  | .interrupt p v => unlessStopped s p fun x =>
      if busHeld s p then x else x.takeMaskable (handlerOf s x (.vector v))
  | .nmi p => unlessStopped s p fun x => x.takeUnmaskable (handlerOf s x .nmi)
  | .smi p => unlessStopped s p fun x => x.takeUnmaskable (handlerOf s x .smi)
  | .init p => unlessStopped s p fun x => if x.canTake .init then x.takeInit else x
  | .wake p => onProc s p Proc.wake
  | .stpclk k on => .next (withPins { s with procs := onPackage s k (·.stopGrant on) } k
      fun w => { w with stpclk := on })
  | .lint k one on => .next (lintEvent s k one on)
  | .busSignal => .next { s with procs := s.procs.map Proc.wake }
  | .a20m k on => .next (a20Event s k on)
  | .machineCheck k => .next (withPins { s with procs := onPackage s k Proc.machineCheck } k
      fun w => { w with ierr := w.ierr || anyMceClear s k })
  | .apicBusError p => onProc s p fun x => { x with activity := .shutdown, boot := .done }
  | .reset => .next (resetSystem s)
  | .resetArbitrating => .next (if arbitratesByIpi s.cfg then resetArbitrating s else resetSystem s)
  | .idle => .next s

/-- The move of a position of the rotation: each processor executes, each queue performs its head, each
processor is given a message, in turn (R147, log 6). -/
def turnEvent (n t : Nat) : Event :=
  if t < n then .exec t
  else if t < 2 * n then .perform (t - n) 0
  else .deliver (t - 2 * n)

/-- The next position of the rotation. -/
def nextTurn (n t : Nat) : Nat := if t + 1 < 3 * n then t + 1 else 0

/-- The move a step makes, and the state before it: the head of the agenda or the rotation's. -/
def chooseMove (s : State) : Event × State :=
  match s.agenda with
  | e :: t => (e, { s with agenda := t, tick := s.tick + 1 })
  | [] => (turnEvent s.cfg.nproc s.turn, { s with turn := nextTurn s.cfg.nproc s.turn, tick := s.tick + 1 })

/-! ## Placing an instruction -/

/-- Where the fetch of byte i at pc finds its byte. -/
def fetchPlace (s : State) (p : Nat) (x : Proc) (i : Nat) : Option Nat :=
  match translate s p x (x.pc.toNat + i) .fetch with
  | .ok pa _ => some pa
  | .pageFault _ => none

/-- Bytes stored where processor p fetches them, in Coh and in Mem. -/
def placeBytes (s : State) (p : Nat) (x : Proc) : Nat → List Byte → State
  | _, [] => s
  | i, b :: t =>
    match fetchPlace s p x i with
    | none => placeBytes s p x (i + 1) t
    | some pa => placeBytes { s with coh := writeByte s.coh pa b, mem := writeByte s.mem pa b } p x (i + 1) t

/-- The bytes of a table number and zeros after them, 15 in all. -/
def placedBytes (nbits w : Nat) : List Byte := (tableWordBytes nbits w ++ List.replicate 15 0#8).take 15

/-- Nothing of the processor's own shadows the bytes at pc: no abstract step stands there and no old byte may be
fetched; it is Running and goes on. -/
def Proc.clearAt (x : Proc) : Proc :=
  { x with
    program := x.program.filter (·.pc != x.pc), stale := [], activity := .running, ended := none, refusal := none }

/-- Nothing of the system keeps processor p from executing: STPCLK# of its package is deasserted, and no other
processor of its core holds it. -/
def State.letRun (s : State) (p : Nat) : State :=
  (siblings s.cfg p).foldl (fun t q => t.updProc q fun y => { y with serializing := false })
    (withPins s (packageOf s.cfg p) fun w => { w with stpclk := false })

end Sys2Proof.Machine
end

