-- ==== Sys2Proof/Machine/Step.lean ====
section
/-! DEFINITION. One step of the machine, and the placing of an instruction where the next step fetches it. -/

namespace Sys2Proof.Machine

open Sys2Proof

/-- One step: one move of one agent (R144 to R147, log 6). -/
def step (s : State) : Host.Outcome State Fault Refusal := doEvent (chooseMove s).2 (chooseMove s).1

/-- s with the instruction of a table number stored where the executing processor fetches its next one, and that
processor's execution as the next move (log 10). -/
def State.withFetchWord (s : State) (nbits w : Nat) : State :=
  match s.procs[s.cur]? with
  | none => s
  | some x =>
    { ((placeBytes s s.cur x 0 (placedBytes nbits w)).letRun s.cur).setProc s.cur x.clearAt with
      agenda := .exec s.cur :: s.agenda }

end Sys2Proof.Machine
end

