-- ==== Sys2Proof/Safety.lean ====
section
/-! DEFINITION. What holds of a good state and of a safe step, in the terms the statements use. -/

namespace Sys2Proof.Machine

open Sys2Proof

/-- The invariant of R140: where a line is not Modified, memory and the coherent value agree on it. -/
def State.Coherent (s : State) : Prop :=
  ∀ a, s.lineState (lineOf s.cfg a) ≠ .modified → readByte s.mem a = readByte s.coh a

/-- The maps are in canonical form. -/
structure State.Canonical (s : State) : Prop where
  coh : Memory.wf s.coh = true
  mem : Memory.wf s.mem = true
  lines : linesWf s.lines = true

/-- The invariant of the memory state. -/
structure State.Inv (s : State) : Prop where
  canonical : s.Canonical
  coherent : s.Coherent

/-- The system has the processors its configuration names (R8, R20). -/
def State.Populated (s : State) : Prop := s.procs.length = s.cfg.nproc

/-- A safe step: it answers a next state. -/
def Safe (o : Out) : Prop := ∃ s, o = .next s

/-- A processor that executes instructions: it exists, is Running, its run has not ended (R144, R292, R378), STPCLK#
is not asserted (R335), and no other processor of its core waits to serialize the core (R251). -/
def State.Runs (s : State) (p : Nat) (x : Proc) : Prop :=
  s.procs[p]? = some x ∧ x.activity = .running ∧ x.ended = none ∧ x.refusal = none ∧ stopped s p = false ∧
    heldBySibling s p x = false

/-! ## What the statements speak of -/

/-- The `m8` operand of a cache-line instruction with its prefixes (R190 to R192). -/
def memoryForm : Instr → Option (Prefixes × MemOp)
  | .clflush px m => some (px, m)
  | .clflushopt px m => some (px, m)
  | .clwb px m => some (px, m)
  | .lfence _ _ => none
  | .mfence _ _ => none
  | .sfence _ _ => none

/-- The conditions of #UD (R281). -/
def undefinedOpcode (c : Config) : Instr → Bool
  | .clflush px _ => px.has .lock || !c.hasClfsh
  | .clflushopt px _ => px.has .lock || px.has .repne || px.has .rep || !c.hasClflushopt
  | .clwb px _ => px.has .lock || !c.hasClwb
  | .lfence px _ => px.has .lock || !c.hasSse2
  | .mfence px _ => px.has .lock || !c.hasSse2
  | .sfence px _ => px.has .lock || !c.hasSse

/-- Whether the execute-only allowance holds (R84). -/
def execOnlyAllowed (c : Config) : Instr → Bool
  | .clflush _ _ => true
  | .clflushopt _ _ => true
  | .clwb _ _ => c.clwbExecOnlyOk
  | .lfence _ _ => false
  | .mfence _ _ => false
  | .sfence _ _ => false

/-- The tables after differ from those before in accessed flags alone, and no such flag was cleared (R84). -/
def AccessedOnly (before after : List AddrSpace) : Prop :=
  List.Forall₂ (fun a b => b.cr3 = a.cr3 ∧
    List.Forall₂ (fun m n => n = { m with accessed := n.accessed } ∧ (m.accessed = true → n.accessed = true))
      a.pages b.pages) before after

/-- The privileged steps (R300). -/
def AbsStep.isPrivileged : AbsStep → Bool
  | .wbinvd | .invd | .invlpg _ | .invept | .invvpid | .lgdt _ | .lidt _ | .lldt _ | .ltr _ | .movCr0 _
  | .movCr3 _ | .movCr4 _ | .movCr8 _ | .movDr _ _ | .wrmsr _ _ | .rdmsr _ _ => true
  | .load _ _ _ | .store _ _ _ | .movReg _ _ | .addReg _ _ | .andReg _ _ | .orReg _ _ | .xchg _ _ _
  | .locked _ _ _ | .lockInvalid | .ioIn _ _ | .ioOut _ _ | .ins _ _ | .outs _ _ | .jump _ | .jumpIf _ _ | .hlt | .pause | .cli | .sti
  | .monitor _ | .mwait | .cpuid | .iret | .rsm | .movSeg _ _ | .taskSwitch _ | .stos _ | .movs _ | .repStos _
  | .repMovs _ | .ntStore => false

/-- The serializing steps (R250, R251). -/
def AbsStep.isSerializing : AbsStep → Bool
  | .cpuid | .wbinvd | .invd | .invlpg _ | .invept | .invvpid | .lgdt _ | .lidt _ | .lldt _ | .ltr _ | .movCr0 _
  | .movCr3 _ | .movCr4 _ | .movDr _ _ | .rdmsr _ _ | .iret | .rsm => true
  | .wrmsr m _ => !m.nonSerializing
  | .movCr8 _ | .load _ _ _ | .store _ _ _ | .movReg _ _ | .addReg _ _ | .andReg _ _ | .orReg _ _ | .xchg _ _ _
  | .locked _ _ _ | .lockInvalid | .ioIn _ _ | .ioOut _ _ | .ins _ _ | .outs _ _ | .jump _ | .jumpIf _ _ | .hlt | .pause | .cli | .sti
  | .monitor _ | .mwait | .movSeg _ _ | .taskSwitch _ | .stos _ | .movs _ | .repStos _ | .repMovs _
  | .ntStore => false

/-- The serializing steps that wait for every processor of the core (R251). -/
def AbsStep.coreWide (x : Proc) : AbsStep → Bool
  | .wbinvd | .invd => true
  | .movCr0 v => v.cd != x.cr0.cd
  | .wrmsr m _ => !m.nonSerializing
  | .cpuid | .invlpg _ | .invept | .invvpid | .lgdt _ | .lidt _ | .lldt _ | .ltr _ | .movCr3 _ | .movCr4 _
  | .movDr _ _ | .rdmsr _ _ | .iret | .rsm | .movCr8 _ | .load _ _ _ | .store _ _ _ | .movReg _ _ | .addReg _ _
  | .andReg _ _ | .orReg _ _ | .xchg _ _ _ | .locked _ _ _ | .lockInvalid | .ioIn _ _ | .ioOut _ _ | .ins _ _ | .outs _ _ | .jump _
  | .jumpIf _ _ | .hlt | .pause | .cli | .sti | .monitor _ | .mwait | .movSeg _ _ | .taskSwitch _ | .stos _
  | .movs _ | .repStos _ | .repMovs _ | .ntStore => false

/-- Whether a queue entry is a write that covers an address. -/
def QEntry.writes (e : QEntry) (a : Nat) : Bool :=
  match e with
  | .w pa n _ => inRange pa n a
  | .cf _ => false
  | .co _ => false
  | .cw _ => false
  | .sf => false

/-- b is the byte at an address that the newest write of processor x's queue gives it, or the one in Coh where no
write of the queue covers it (R146). -/
def State.NewestByte (s : State) (x : Proc) (a : Nat) (b : Byte) : Prop :=
  (∃ older newer pa n v, x.queue = older ++ .w pa n v :: newer ∧ pa ≤ a ∧ a < pa + n ∧
    (∀ e ∈ newer, e.writes a = false) ∧ b = v.extractLsb' (8 * (a - pa)) 8) ∨
  ((∀ e ∈ x.queue, e.writes a = false) ∧ b = readByte s.coh a)

/-- The byte a list of cells writes at an address, the last one where several do. -/
def writtenAt (cells : List Host.Cell) (a : Nat) : Option Byte := (cells.reverse.find? (·.1 == a)).map (·.2)

/-- y is processor x with its monitor triggered: an MWAIT has ended, one that STPCLK# holds too (R264, R335). -/
def Triggered (x y : Proc) : Prop :=
  y = { x with monitor := .triggered, activity := y.activity } ∧
  (x.activity = .mwaitWait → y.activity = .running) ∧
  (x.activity = .stopGrant .mwaitWait → y.activity = .stopGrant .running) ∧
  (x.activity ≠ .mwaitWait → x.activity ≠ .stopGrant .mwaitWait → y.activity = x.activity)

/-- y is processor x after a flush or write-back of the n bytes of line l: as it was, or with a monitor that was armed on
the line triggered (R206, U23). -/
def FlushSeen (l n : Nat) (x y : Proc) : Prop :=
  y = x ∨ ∃ lo size, x.monitor = .armed lo size ∧ lo < l + n ∧ l < lo + size ∧ Triggered x y

/-- y is processor x after an INIT: the BSP at the reset vector, any other waiting for a SIPI, no entry of Q_p and no
general register lost (R332, R355, log 12). -/
def AfterInit (x y : Proc) : Prop :=
  (x.bspFlag = true → y.activity = .running ∧ y.pc = 0xFFFFFFF0#64) ∧
  (x.bspFlag = false → y.activity = .waitForSipi) ∧ y.queue = x.queue ∧ y.gpr = x.gpr

/-- y is processor x after a SIPI: one that waited for it runs at the start-up page, any other is as it was
(R332, R353); that the first keeps Q_p and the general registers is log 12. -/
def AfterSipi (x y : Proc) (vv : Byte) : Prop :=
  (x.activity = .waitForSipi → y.activity = .running ∧ y.mode = .realAddress ∧ y.pc.toNat = vv.toNat * 4096 ∧
    y.queue = x.queue ∧ y.gpr = x.gpr) ∧
  (x.activity ≠ .waitForSipi → y = x)

/-- The moves of the memory system and of the caches by themselves (R141, R145). -/
def Event.ofMemory : Event → Bool
  | .perform _ _ | .fill _ | .evict _ | .writeBack _ _ => true
  | .exec _ | .tlbFill _ _ | .tlbDrop _ _ | .deliver _ | .interrupt _ _ | .nmi _ | .smi _ | .init _ | .wake _
  | .stpclk _ _ | .lint _ _ _ | .busSignal | .a20m _ _ | .machineCheck _ | .apicBusError _ | .reset
  | .resetArbitrating | .idle => false

/-- A run of moves, as long as each answers a next state. -/
def runEvents : State → List Event → Option State
  | s, [] => some s
  | s, e :: t =>
    match doEvent s e with
    | .next u => runEvents u t
    | .fault _ => none
    | .refused _ => none

/-! ## The end of a run (R378) -/

/-- Whether a message that processor x can take lets it leave the state it rests in: an INIT ends `Halted` and
`MwaitWait` and restarts a BSP (R332), a SIPI ends `WaitForSIPI` alone (R332, U20), a BIPI or FIPI counts during the
selection (R352); one of a mode the source does not give wakes nothing (log 19). -/
def IpiKind.wakes (x : Proc) : IpiKind → Bool
  | .init => x.activity != .waitForSipi || x.bspFlag
  | .sipi _ => x.activity == .waitForSipi
  | .bipi _ | .fipi _ => x.boot != .done
  | .fixed _ | .nmi | .smi => true
  | .other _ => false

/-- No message waits that would wake a processor (R378). -/
def State.noWake (s : State) (p : Nat) (x : Proc) : Bool := !s.ipis.any fun m => m.isFor p x && m.kind.wakes x

/-- The run of a logical processor has ended: by a fault, at something the model refuses, in `Shutdown`, or `Halted`
or in `MwaitWait` with no wake event available (R378, D23). One in `WaitForSIPI` executes nothing while no SIPI
waits. -/
def State.runEnded (s : State) (p : Nat) (x : Proc) : Bool :=
  x.ended.isSome || x.refusal.isSome ||
    match x.activity with
    | .running | .stopGrant _ => false
    | .halted | .mwaitWait | .waitForSipi => s.noWake p x
    | .shutdown => true

/-- Every run has ended. -/
def State.finished (s : State) : Bool := (s.procs.mapIdx s.runEnded).all id

/-- t is the final state of a finished system s: every Q_p has drained, and that has woken no processor (R378,
D23). -/
def State.FinalOf (s t : State) : Prop :=
  s.finished = true ∧ t.finished = true ∧
    (∃ evs : List Event, (∀ e ∈ evs, ∃ p i, e = .perform p i) ∧ runEvents s evs = some t) ∧
    ∀ x ∈ t.procs, x.queue = []

end Sys2Proof.Machine
end

