-- ==== Sys2Proof/WellFormed.lean ====
section
/-! DEFINITION. Which instructions an encoding exists for (30_encoding.md R150 to R162). -/

namespace Sys2Proof

/-- The bytes a memory operand has are those its ModR/M and SIB ask for, and mod is not 11B (R157). -/
def MemOp.wf (a : AddrSize) (m : MemOp) : Bool :=
  m.mod != 3#2 && m.sib.isSome == sibFollows a m.rm && m.disp.length == dispLen a m.mod m.rm m.sib

/-- REX exists in 64-bit mode only (R159). -/
def Prefixes.wf (env : DecodeEnv) (px : Prefixes) : Bool := env.long || px.rex.isNone

/-- The mandatory prefixes of each row of R154, the operand's shape, and the 15-byte limit of R152. LOCK is
no matter of form: it decodes, and raises #UD (R154). -/
def Instr.wf (env : DecodeEnv) : Instr → Bool
  | i@(.clflush px m) => px.wf env && m.wf (addrSizeOf env px) &&
      !px.has .opSize && !px.has .repne && !px.has .rep && decide (i.length ≤ 15)
  | i@(.clflushopt px m) => px.wf env && m.wf (addrSizeOf env px) &&
      px.has .opSize && decide (i.length ≤ 15)
  | i@(.clwb px m) => px.wf env && m.wf (addrSizeOf env px) &&
      px.has .opSize && !px.has .repne && !px.has .rep && decide (i.length ≤ 15)
  | i@(.lfence px _) => px.wf env &&
      !px.has .opSize && !px.has .repne && !px.has .rep && decide (i.length ≤ 15)
  | i@(.mfence px _) => px.wf env &&
      !px.has .opSize && !px.has .repne && !px.has .rep && decide (i.length ≤ 15)
  | i@(.sfence px _) => px.wf env &&
      !px.has .opSize && !px.has .repne && !px.has .rep && decide (i.length ≤ 15)

end Sys2Proof
end

