-- ==== Sys2Proof/Certificates/Slice0/Obligations.lean ====
section
/-! DEFINITION. The statements for the provers, from the numbered rules of spec/. -/

open Sys2Proof Sys2Proof.Machine

/-! ## Encoding -/

/-- R154, R157, R159: decoding the encoding of a well-formed instruction, whatever bytes follow, gives the
instruction back. -/
def Obligations.DecodeOfEncode : Prop :=
  ∀ (env : DecodeEnv) (i : Instr) (rest : List Byte),
    i.wf env = true → decode env (encode i ++ rest) = .ok i rest

/-- R154, R157, R159: what decodes is well-formed, and its bytes are its encoding. -/
def Obligations.EncodeOfDecode : Prop :=
  ∀ (env : DecodeEnv) (bytes rest : List Byte) (i : Instr),
    decode env bytes = .ok i rest → i.wf env = true ∧ bytes = encode i ++ rest

/-- R155: every fence has eight encodings of three bytes plus prefixes, all with identical behaviour. -/
def Obligations.FenceAliases : Prop :=
  ∀ (env : DecodeEnv) (px : Prefixes) (rm : BitVec 3) (s : State) (rest : List Byte),
    decode env (0x0F#8 :: 0xAE#8 :: (0xE8#8 + rm.setWidth 8) :: rest) = .ok (.lfence ⟨[], none⟩ rm) rest ∧
    decode env (0x0F#8 :: 0xAE#8 :: (0xF0#8 + rm.setWidth 8) :: rest) = .ok (.mfence ⟨[], none⟩ rm) rest ∧
    decode env (0x0F#8 :: 0xAE#8 :: (0xF8#8 + rm.setWidth 8) :: rest) = .ok (.sfence ⟨[], none⟩ rm) rest ∧
    exec (.lfence px rm) s = exec (.lfence px 0#3) s ∧
    exec (.mfence px rm) s = exec (.mfence px 0#3) s ∧
    exec (.sfence px rm) s = exec (.sfence px 0#3) s ∧
    (Instr.lfence px rm).length = px.length + 3 ∧ (Instr.mfence px rm).length = px.length + 3 ∧
    (Instr.sfence px rm).length = px.length + 3

/-- R161: the combinations the source leaves undefined are no instruction of the six: a memory form whose reg is
not 6 or 7, reg 6 without 66H, reg 6 with F2H or F3H, reg 7 with F2H or F3H and without 66H, and a register form
with a mandatory prefix byte or with reg below 5. -/
def Obligations.UndefinedCombinationsDoNotDecode : Prop :=
  ∀ (env : DecodeEnv) (legacy : List LegacyPrefix) (b : Byte) (tail : List Byte) (i : Instr) (rest : List Byte),
    let p66 := legacy.contains .opSize
    let f := legacy.contains .repne || legacy.contains .rep
    let reg := (b.extractLsb' 3 3).toNat
    let memory := b.extractLsb' 6 2 ≠ 3#2
    ((memory ∧ (reg < 6 ∨ (reg = 6 ∧ (p66 = false ∨ f = true)) ∨ (reg = 7 ∧ f = true ∧ p66 = false))) ∨
      (¬ memory ∧ (reg < 5 ∨ p66 = true ∨ f = true))) →
    decode env (legacy.map LegacyPrefix.toByte ++ 0x0F#8 :: 0xAE#8 :: b :: tail) ≠ .ok i rest

/-- R166: a few words of the spec's table decode to the instructions they stand for. -/
def Obligations.SpecWordsDecode : Prop :=
  decode ⟨true, false⟩ [0x0F#8, 0xAE#8, 0x38#8] = .ok (.clflush ⟨[], none⟩ ⟨0#2, 0#3, none, .none⟩) [] ∧
  decode ⟨true, false⟩ [0x66#8, 0x41#8, 0x0F#8, 0xAE#8, 0x3C#8, 0x24#8] =
    .ok (.clflushopt ⟨[.opSize], some ⟨false, false, false, true⟩⟩ ⟨0#2, 4#3, some ⟨0#2, 4#3, 4#3⟩, .none⟩) [] ∧
  decode ⟨true, false⟩ [0x66#8, 0x0F#8, 0xAE#8, 0x74#8, 0xCB#8, 0x40#8] =
    .ok (.clwb ⟨[.opSize], none⟩ ⟨1#2, 4#3, some ⟨3#2, 1#3, 3#3⟩, .d8 0x40#8⟩) [] ∧
  decode ⟨false, true⟩ [0x0F#8, 0xAE#8, 0xED#8] = .ok (.lfence ⟨[], none⟩ 5#3) [] ∧
  decode ⟨false, false⟩ [0x0F#8, 0xAE#8, 0xF0#8] = .ok (.mfence ⟨[], none⟩ 0#3) [] ∧
  decode ⟨true, false⟩ [0x0F#8, 0xAE#8, 0xFF#8] = .ok (.sfence ⟨[], none⟩ 7#3) [] ∧
  decode ⟨true, false⟩ [0x66#8, 0x0F#8, 0xAE#8, 0xF0#8] = .outside .fenceWithMandatoryPrefix

/-! ## The six instructions complete -/

/-- R190: CLFLUSH, without LOCK and with CLFSH, whose address checks pass, appends CF of the operand's line to
Q_p and moves pc past itself; nothing else changes but accessed flags of the tables. -/
def Obligations.ClflushQueuesItsLine : Prop :=
  ∀ (s : State) (x : Proc) (px : Prefixes) (m : MemOp) (la : W64) (pa : Nat) (t : List AddrSpace),
    s.procs[s.cur]? = some x → px.has .lock = false → s.cfg.hasClfsh = true →
    operandLinear s.cfg x px m (px.length + 3 + m.length) true = .ok la →
    translate s s.cur x la.toNat .read = .ok pa t →
    exec (.clflush px m) s = .next (State.setProc { s with tables := t } s.cur
      { x with
        queue := x.queue ++ [.cf (lineOf s.cfg pa)]
        pc := x.sized (x.pc + BitVec.ofNat 64 (px.length + 3 + m.length)) })

/-- R191: CLFLUSHOPT, without LOCK, F2H and F3H and with its feature, whose address checks pass, appends CO of
the operand's line. -/
def Obligations.ClflushoptQueuesItsLine : Prop :=
  ∀ (s : State) (x : Proc) (px : Prefixes) (m : MemOp) (la : W64) (pa : Nat) (t : List AddrSpace),
    s.procs[s.cur]? = some x → px.has .lock = false → px.has .repne = false → px.has .rep = false →
    s.cfg.hasClflushopt = true →
    operandLinear s.cfg x px m (px.length + 3 + m.length) true = .ok la →
    translate s s.cur x la.toNat .read = .ok pa t →
    exec (.clflushopt px m) s = .next (State.setProc { s with tables := t } s.cur
      { x with
        queue := x.queue ++ [.co (lineOf s.cfg pa)]
        pc := x.sized (x.pc + BitVec.ofNat 64 (px.length + 3 + m.length)) })

/-- R192: CLWB, without LOCK and with its feature, whose address checks pass, appends CW of the operand's
line. -/
def Obligations.ClwbQueuesItsLine : Prop :=
  ∀ (s : State) (x : Proc) (px : Prefixes) (m : MemOp) (la : W64) (pa : Nat) (t : List AddrSpace),
    s.procs[s.cur]? = some x → px.has .lock = false → s.cfg.hasClwb = true →
    operandLinear s.cfg x px m (px.length + 3 + m.length) s.cfg.clwbExecOnlyOk = .ok la →
    translate s s.cur x la.toNat .read = .ok pa t →
    exec (.clwb px m) s = .next (State.setProc { s with tables := t } s.cur
      { x with
        queue := x.queue ++ [.cw (lineOf s.cfg pa)]
        pc := x.sized (x.pc + BitVec.ofNat 64 (px.length + 3 + m.length)) })

/-- R220: LFENCE changes nothing but pc, whatever Q_p holds. -/
def Obligations.LfenceMovesPcAlone : Prop :=
  ∀ (s : State) (x : Proc) (px : Prefixes) (rm : BitVec 3),
    s.procs[s.cur]? = some x → px.has .lock = false → s.cfg.hasSse2 = true →
    (fencePrefixPresent px = false ∨ s.cfg.fenceIgnoresPrefixes = true) →
    exec (.lfence px rm) s =
      .next (s.setProc s.cur { x with pc := x.sized (x.pc + BitVec.ofNat 64 (px.length + 3)) })

/-- R221: MFENCE executes when Q_p is empty, and then changes nothing but pc; until then it waits. That a wait leaves the
state as it is is the model's choice (log 16). -/
def Obligations.MfenceWaitsForItsQueue : Prop :=
  ∀ (s : State) (x : Proc) (px : Prefixes) (rm : BitVec 3),
    s.procs[s.cur]? = some x → px.has .lock = false → s.cfg.hasSse2 = true →
    (fencePrefixPresent px = false ∨ s.cfg.fenceIgnoresPrefixes = true) →
    exec (.mfence px rm) s =
      if x.queue = [] then .next (s.setProc s.cur { x with pc := x.sized (x.pc + BitVec.ofNat 64 (px.length + 3)) })
      else .next s

/-- R222: SFENCE appends its marker to Q_p and moves pc; it does not wait. -/
def Obligations.SfenceQueuesItsMarker : Prop :=
  ∀ (s : State) (x : Proc) (px : Prefixes) (rm : BitVec 3),
    s.procs[s.cur]? = some x → px.has .lock = false → s.cfg.hasSse = true →
    (fencePrefixPresent px = false ∨ s.cfg.fenceIgnoresPrefixes = true) →
    exec (.sfence px rm) s = .next (s.setProc s.cur
      { x with queue := x.queue ++ [.sf], pc := x.sized (x.pc + BitVec.ofNat 64 (px.length + 3)) })

/-- R161 (f): a fence with a REX, segment-override or 67H prefix is refused where FENCE_IGNORES_PREFIXES is
false. That the refusal comes before the #UD of R281 for LOCK or a clear feature flag is the model's choice
(log 33). -/
def Obligations.FencePrefixesAreRefused : Prop :=
  ∀ (s : State) (x : Proc) (px : Prefixes) (rm : BitVec 3),
    s.procs[s.cur]? = some x → fencePrefixPresent px = true → s.cfg.fenceIgnoresPrefixes = false →
    exec (.lfence px rm) s = .refused .fencePrefix ∧ exec (.mfence px rm) s = .refused .fencePrefix ∧
    exec (.sfence px rm) s = .refused .fencePrefix

/-! ## Frames and exceptions of the six -/

/-- What the six leave unchanged. The processor's registers other than pc, Q_p and the record of a fault, every
other processor, every byte of Coh and of Mem, St, the TLB, the MSRs and all the rest of the system stay; Q_p
grows at its tail by one entry at most. -/
def Obligations.SixInstructionsFrame : Prop :=
  ∀ (i : Instr) (s t : State), exec i s = .next t →
    t = { s with procs := t.procs, tables := t.tables } ∧
    (∀ a, readByte t.coh a = readByte s.coh a ∧ readByte t.mem a = readByte s.mem a) ∧
    (∀ q, q ≠ s.cur → t.procs[q]? = s.procs[q]?) ∧
    ∃ x y l, s.procs[s.cur]? = some x ∧ t.procs[s.cur]? = some y ∧
      y = { x with pc := y.pc, queue := y.queue, ended := y.ended } ∧
      y.queue = x.queue ++ l ∧ l.length ≤ 1

/-- R84, R291: the tables change in accessed flags alone, which are only ever set; a dirty flag never changes. -/
def Obligations.SixInstructionsSetAccessedAlone : Prop :=
  ∀ (i : Instr) (s t : State), exec i s = .next t → AccessedOnly s.tables t.tables

/-- R84: with paging on, a cache-line instruction that completes sets the accessed flag of its operand's page. For a
translation that comes from the TLB, that this page is the one of the tables CR3 selects now is the model's choice
(log 1). -/
def Obligations.FlushSetsAccessedFlag : Prop :=
  ∀ (i : Instr) (s t : State) (x y : Proc) (px : Prefixes) (m : MemOp) (la : W64) (page : PageMap),
    memoryForm i = some (px, m) → s.procs[s.cur]? = some x →
    x.mode ≠ .realAddress → x.pgInForce = true → x.cr0.pg = true →
    operandLinear s.cfg x px m i.length (execOnlyAllowed s.cfg i) = .ok la →
    exec i s = .next t → t.procs[s.cur]? = some y → y.ended = none →
    walk t x la.toNat = some page → page.accessed = true

/-- R291: an exception of one of the six leaves everything as it was but the outcome, which holds pc of the
instruction, and accessed flags. -/
def Obligations.ExceptionsHaveNoEffect : Prop :=
  ∀ (i : Instr) (s t : State) (x y : Proc), s.procs[s.cur]? = some x → x.ended = none →
    exec i s = .next t → t.procs[s.cur]? = some y → y.ended ≠ none →
    ∃ k c, y = { x with ended := some ⟨k, c, x.pc⟩ } ∧
      t = State.setProc { s with tables := t.tables } s.cur y ∧ AccessedOnly s.tables t.tables

/-- R281: #UD without a code for LOCK, a clear feature flag, and F2H or F3H on CLFLUSHOPT. -/
def Obligations.UndefinedOpcodeConditions : Prop :=
  ∀ (i : Instr) (s : State) (x : Proc), s.procs[s.cur]? = some x → undefinedOpcode s.cfg i = true →
    (∀ px rm, i = .lfence px rm ∨ i = .mfence px rm ∨ i = .sfence px rm →
      fencePrefixPresent px = false ∨ s.cfg.fenceIgnoresPrefixes = true) →
    exec i s = .next (s.setProc s.cur { x with ended := some ⟨.ud, none, x.pc⟩ })

/-- R287: the fences raise #UD, by R281, and nothing else, in every mode. -/
def Obligations.FencesRaiseUndefinedOpcodeOnly : Prop :=
  ∀ (i : Instr) (s t : State) (x y : Proc), memoryForm i = none → s.procs[s.cur]? = some x →
    exec i s = .next t → t.procs[s.cur]? = some y →
    (undefinedOpcode s.cfg i = true → y.ended = some ⟨.ud, none, x.pc⟩) ∧
    (undefinedOpcode s.cfg i = false → y.ended = x.ended)

/-- R283: real-address mode: #UD, #GP without a code for an effective address above FFFFH through
any segment (the stack segment too is the spec's decision D26), and nothing else. -/
def Obligations.RealModeExceptions : Prop :=
  ∀ (i : Instr) (s t : State) (x y : Proc) (px : Prefixes) (m : MemOp), memoryForm i = some (px, m) →
    s.procs[s.cur]? = some x → x.mode = .realAddress →
    exec i s = .next t → t.procs[s.cur]? = some y →
    y.ended =
      if undefinedOpcode s.cfg i then some ⟨.ud, none, x.pc⟩
      else if 0xFFFF < (effectiveAddress x px m (x.pc + BitVec.ofNat 64 i.length)).toNat then
        some ⟨.gp, none, x.pc⟩
      else x.ended

/-- R284: virtual-8086 mode: the exceptions of real-address mode (R283, D26), and #PF with a code; which accesses
translation lets pass is the model's choice (log 1, log 15). -/
def Obligations.Virtual8086Exceptions : Prop :=
  ∀ (i : Instr) (s t : State) (x y : Proc) (px : Prefixes) (m : MemOp), memoryForm i = some (px, m) →
    s.procs[s.cur]? = some x → x.mode = .virtual8086 →
    exec i s = .next t → t.procs[s.cur]? = some y →
    if undefinedOpcode s.cfg i then y.ended = some ⟨.ud, none, x.pc⟩
    else if 0xFFFF < (effectiveAddress x px m (x.pc + BitVec.ofNat 64 i.length)).toNat then
      y.ended = some ⟨.gp, none, x.pc⟩
    else ∃ la, operandLinear s.cfg x px m i.length (execOnlyAllowed s.cfg i) = .ok la ∧
      ((∃ pa u, translate s s.cur x la.toNat .read = .ok pa u ∧ y.ended = x.ended) ∨
        (∃ u code, translate s s.cur x la.toNat .read = .pageFault u ∧ y.ended = some ⟨.pf, some code, x.pc⟩))

/-- R282: protected mode: #UD, #SS(0) for an illegal address through SS, #GP(0) through any other segment,
#PF with a code. An address is illegal when SegOK of R83 fails, whose definition the spec marks as not in the
source. -/
def Obligations.ProtectedModeExceptions : Prop :=
  ∀ (i : Instr) (s t : State) (x y : Proc) (px : Prefixes) (m : MemOp), memoryForm i = some (px, m) →
    s.procs[s.cur]? = some x → x.mode = .protectedMode →
    exec i s = .next t → t.procs[s.cur]? = some y →
    let pcNext := x.pc + BitVec.ofNat 64 i.length
    let seg := operandSeg x px m pcNext
    let ea := effectiveAddress x px m pcNext
    if undefinedOpcode s.cfg i then y.ended = some ⟨.ud, none, x.pc⟩
    else if segOk (x.segs.get seg) ea 1 (execOnlyAllowed s.cfg i) = false then
      y.ended = some ⟨if seg = .ss then .ss else .gp, some 0#32, x.pc⟩
    else
      let la := ((x.segs.get seg).base + ea) &&& 0xFFFFFFFF#64
      (∃ pa u, translate s s.cur x la.toNat .read = .ok pa u ∧ y.ended = x.ended) ∨
        (∃ u code, translate s s.cur x la.toNat .read = .pageFault u ∧ y.ended = some ⟨.pf, some code, x.pc⟩)

/-- R285: compatibility mode: the same exceptions as in protected mode. -/
def Obligations.CompatibilityModeAsProtected : Prop :=
  ∀ (i : Instr) (s t u : State) (x y z : Proc), s.procs[s.cur]? = some x → x.mode = .protectedMode →
    exec i s = .next t → exec i (s.setProc s.cur { x with mode := .compatibility }) = .next u →
    t.procs[s.cur]? = some y → u.procs[s.cur]? = some z → z.ended = y.ended

/-- R286: 64-bit mode: #UD, #SS(0) for a non-canonical address through SS, #GP(0) through any other segment,
#PF with a code; no limit is checked. Canonical is the spec's decision D13 (log 2). That an explicit 36H makes the
segment SS is the choice of R158, which the spec marks as not settled by the source. -/
def Obligations.LongModeExceptions : Prop :=
  ∀ (i : Instr) (s t : State) (x y : Proc) (px : Prefixes) (m : MemOp), memoryForm i = some (px, m) →
    s.procs[s.cur]? = some x → x.mode = .mode64 →
    exec i s = .next t → t.procs[s.cur]? = some y →
    let pcNext := x.pc + BitVec.ofNat 64 i.length
    let seg := operandSeg x px m pcNext
    let la := base64 x seg + effectiveAddress x px m pcNext
    if undefinedOpcode s.cfg i then y.ended = some ⟨.ud, none, x.pc⟩
    else if canonical s.cfg la = false then y.ended = some ⟨if seg = .ss then .ss else .gp, some 0#32, x.pc⟩
    else
      (∃ pa u, translate s s.cur x la.toNat .read = .ok pa u ∧ y.ended = x.ended) ∨
        (∃ u code, translate s s.cur x la.toNat .read = .pageFault u ∧ y.ended = some ⟨.pf, some code, x.pc⟩)

/-! ## Steps and reset -/

/-- When a processor's move comes, no abstract step stands at its pc, and the bytes there decode to an instruction, the
step is exec of that instruction; the step itself only takes the move off the agenda or turns the rotation, counts the
tick, says who executes, and makes a refusal of exec the end of that processor's run (R378, D23). Where RIP or EIP (R22)
cannot hold the address after the instruction (EIP being the offset of pc in the code segment, outside 64-bit mode),
or the 4 GByte of linear addresses end there, and the instruction moves pc there, its effect stands and the
processor's run ends behind it: the spec refuses that wrap (D8, U17), and that the effect stands is the model's choice
(log 12). -/
def Obligations.StepRunsDecodedInstruction : Prop :=
  ∀ (s u : State) (p : Nat) (x : Proc) (i : Instr) (rest : List Byte),
    chooseMove s = (.exec p, u) → u.Runs p x → (∀ e ∈ x.program, e.pc ≠ x.pc) →
    decode x.decodeEnv (fetchBytes { u with cur := p } p x 0 15).1 = .ok i rest →
    step s = contain { u with cur := p } p (endAtWrap p x i.length (exec i { u with cur := p })) ∧
      ((if x.mode = .mode64 then x.pc.toNat + i.length < 2 ^ 64
        else x.pc.toNat + i.length < 2 ^ 32 ∧ (x.pc - x.segs.cs.base).toNat % 2 ^ 32 + i.length < 2 ^ 32) →
        step s = contain { u with cur := p } p (exec i { u with cur := p })) ∧
      (∀ t, exec i { u with cur := p } = .next t → (∀ y, t.procs[p]? = some y → y.pc = x.pc) → step s = .next t) ∧
      i.wf x.decodeEnv = true ∧ u = { s with agenda := u.agenda, turn := u.turn, tick := s.tick + 1 }

/-- R47, R330, R350, R351, R354: after reset, for any parameters, the one BSP is Running at FFFFFFF0H with
translation off, every AP waits for a SIPI, all are in real-address mode, SVR bit 8 is 0, queues are empty,
monitors triggered, every line Invalid, Coh = Mem, the TLB empty. That translation is off and CR0.PG clear on the APs
too, whose control registers R47 and R354 leave open, is the model's choice (log 4). -/
def Obligations.ResetStartsTheBspAlone : Prop :=
  ∀ (c : Config) (p : Nat) (x : Proc), (State.resetWith c).procs[p]? = some x →
    (p = c.bspIndex → x.bspFlag = true ∧ x.activity = .running ∧ x.pc = 0xFFFFFFF0#64) ∧
    (p ≠ c.bspIndex → x.bspFlag = false ∧ x.activity = .waitForSipi) ∧
    x.mode = .realAddress ∧ x.cr0.pg = false ∧ x.pgInForce = false ∧ x.apic.svr.getLsbD 8 = false ∧
    x.queue = [] ∧ x.monitor = .triggered ∧
    (∀ l, (State.resetWith c).lineState l = .invalid) ∧ (State.resetWith c).coh = (State.resetWith c).mem ∧
    (State.resetWith c).tlb = []

/-- R140: the reset state meets the invariant of the memory, and has the processors its parameters name. -/
def Obligations.ResetMeetsTheInvariant : Prop :=
  ∀ c : Config, (State.resetWith c).Inv ∧ (State.resetWith c).Populated

/-- R140: every step keeps the canonical form of Coh, Mem and St, and keeps Mem equal to Coh wherever the line
is not Modified. -/
def Obligations.StepKeepsTheInvariant : Prop :=
  ∀ s t : State, s.Inv → step s = .next t → t.Inv

/-- R8, R20: every step keeps the parameters, and keeps as many processors as they name. -/
def Obligations.StepKeepsTheProcessors : Prop :=
  ∀ s t : State, s.Populated → step s = .next t → t.cfg = s.cfg ∧ t.Populated

/-- R260, R292, R309, R330, R332, R335: a processor that is not Running, or whose run has ended by a fault (D10, log 7)
or at something the model refuses (R378, D23), or whose package has STPCLK# asserted, executes nothing. -/
def Obligations.IdleProcessorsExecuteNothing : Prop :=
  ∀ (s : State) (p : Nat) (x : Proc), s.procs[p]? = some x →
    (x.activity ≠ .running ∨ x.ended ≠ none ∨ x.refusal ≠ none ∨ stopped s p = true) →
    doEvent s (.exec p) = .next { s with cur := p }

/-! ## The queue -/

/-- R105, R144: which earlier entry keeps which later one from being performed. -/
def Obligations.BlockingTable : Prop :=
  ∀ (c : Config) (pa n pa' n' l m : Nat) (v v' : W64) (e : QEntry),
    blocks c .sf e = true ∧
    blocks c (.w pa n v) (.w pa' n' v') = true ∧ blocks c (.w pa n v) (.cf m) = true ∧
    blocks c (.cf l) (.w pa' n' v') = true ∧ blocks c (.cf l) (.cf m) = true ∧
    blocks c (.cf l) (.co m) = false ∧ blocks c (.cf l) (.cw m) = false ∧
    (blocks c (.w pa n v) (.co m) = true ↔ ∃ i, i < n ∧ m ≤ pa + i ∧ pa + i < m + c.line) ∧
    (blocks c (.w pa n v) (.cw m) = true ↔ ∃ i, i < n ∧ m ≤ pa + i ∧ pa + i < m + c.line) ∧
    blocks c (.co l) e = false ∧ blocks c (.cw l) e = false

/-- R109, R111, R144: an entry behind an SFENCE marker is not performed while the marker is there, and the marker
not before every entry ahead of it. -/
def Obligations.SfenceSeparates : Prop :=
  ∀ (c : Config) (before after : List QEntry),
    (∀ i, before.length < i → mayPerform c (before ++ .sf :: after) i = false) ∧
    (before ≠ [] → mayPerform c (before ++ .sf :: after) before.length = false) ∧
    mayPerform c (.sf :: after) 0 = true

/-- R104, R105: writes and CLFLUSHes of one processor are performed in program order; so is a CLFLUSHOPT or CLWB
after an earlier write to its line. -/
def Obligations.WritesAndFlushesInOrder : Prop :=
  ∀ (c : Config) (q : List QEntry) (i j : Nat) (e f : QEntry), i < j → q[i]? = some e → q[j]? = some f →
    (((∃ pa n v, e = .w pa n v) ∨ ∃ l, e = .cf l) ∧ ((∃ pa n v, f = .w pa n v) ∨ ∃ l, f = .cf l) ∨
      (∃ pa n v l k, e = .w pa n v ∧ (f = .co l ∨ f = .cw l) ∧ k < n ∧ l ≤ pa + k ∧ pa + k < l + c.line)) →
    mayPerform c q j = false

/-- R146: a load of ordinary memory that is one event takes each byte from the newest write of its own queue that
covers it, else from Coh, and moves pc; a store that is one event appends one write of its bytes to the queue. Neither
waits where no other processor holds the bus lock and no UC access stands in the way (R149). The upper bits of a
register written by a narrow load are zero by the model's choice (log 22), as are those outside 64-bit mode; old bytes
that a fetch may still see are log 13; the operand passes no segment check by the model's choice (log 28). -/
def Obligations.LoadForwardsTheNewestWrite : Prop :=
  ∀ (s : State) (p len : Nat) (x : Proc) (a : AddrExpr) (w : Width) (pas : List Nat) (tb : List AddrSpace),
    s.procs[p]? = some x → (s.busLock = none ∨ s.busLock = some p) → ucPending s.cfg x = false →
    accessStop s.cfg pas = none → oneEvent s.cfg pas = true →
    (∀ (r : Gpr) (bs : List Byte), translateBytes s p x .read (x.linearOf a) w.bytes = .ok pas tb →
      (touchesUc s.cfg pas = false ∨ x.queue = []) → (∀ pa ∈ pas, inApicPage pa = false) →
      List.Forall₂ (s.NewestByte x) pas bs →
      execStep (.load r a w) len p x s = .next (State.setProc { s with tables := tb } p
        { x with
          gpr := x.gpr.set (Gpr.idx r) (x.sized (valueOf bs)), split := []
          pc := x.sized (x.pc + BitVec.ofNat 64 len) })) ∧
    (∀ v : Src, translateBytes s p x .write (x.linearOf a) w.bytes = .ok pas tb →
      ∃ stale, execStep (.store a w v) len p x s = .next (State.setProc { s with tables := tb } p
        { x with
          queue := x.queue ++ [.w (pas.headD 0) w.bytes (x.src v)], stale := stale
          pc := x.sized (x.pc + BitVec.ofNat 64 len) }))

/-- R145: a write of WB memory performed sets exactly its bytes of Coh, makes exactly the lines it touches
Modified, whatever CR0.CD says, leaves Mem as it was, and takes its entry off the queue. -/
def Obligations.PerformedWriteReachesCoh : Prop :=
  ∀ (s : State) (p i pa n : Nat) (v : W64) (x : Proc),
    s.Canonical → s.procs[p]? = some x → x.queue[i]? = some (.w pa n v) →
    mayPerform s.cfg x.queue i = true → (s.busLock = none ∨ s.busLock = some p) →
    (∀ k, k < n → memType s.cfg (pa + k) = .wb) →
    ∃ t y, doEvent s (.perform p i) = .next t ∧ t.procs[p]? = some y ∧
      y.queue = x.queue.eraseIdx i ∧ y.gpr = x.gpr ∧ y.pc = x.pc ∧
      t.mem = s.mem ∧
      (∀ a, readByte t.coh a = if pa ≤ a ∧ a < pa + n then v.extractLsb' (8 * (a - pa)) 8 else readByte s.coh a) ∧
      (∀ l, (∃ k, k < n ∧ lineOf s.cfg (pa + k) = l) → t.lineState l = .modified) ∧
      (∀ l, (∀ k, k < n → lineOf s.cfg (pa + k) ≠ l) → t.lineState l = s.lineState l)

/-- R145: a write of UC or WT memory outside the local APIC page, performed, reaches Coh and Mem at once and leaves
the states of the lines. -/
def Obligations.UncachedWriteReachesMem : Prop :=
  ∀ (s : State) (p i pa n : Nat) (v : W64) (x : Proc),
    s.Canonical → s.procs[p]? = some x → x.queue[i]? = some (.w pa n v) →
    mayPerform s.cfg x.queue i = true → (s.busLock = none ∨ s.busLock = some p) →
    (∀ k, k < n → memType s.cfg (pa + k) = .uc ∨ memType s.cfg (pa + k) = .wt) → touchesApic pa n = false →
    ∃ t y, doEvent s (.perform p i) = .next t ∧ t.procs[p]? = some y ∧ y.queue = x.queue.eraseIdx i ∧
      t.lines = s.lines ∧
      ∀ a, readByte t.coh a = (if pa ≤ a ∧ a < pa + n then v.extractLsb' (8 * (a - pa)) 8 else readByte s.coh a) ∧
        readByte t.mem a = (if pa ≤ a ∧ a < pa + n then v.extractLsb' (8 * (a - pa)) 8 else readByte s.mem a)

/-- R145, R265: a performed write triggers the monitor of every other processor that is armed on a written byte
of WB memory, ends its MWAIT, and leaves the monitors armed elsewhere. -/
def Obligations.WriteTriggersOtherMonitors : Prop :=
  ∀ (s : State) (p q pa n lo size : Nat) (v : W64) (x : Proc), q ≠ p → s.procs[q]? = some x →
    x.monitor = .armed lo size →
    ∃ y, (performWrite s p (cellsOf pa n v)).procs[q]? = some y ∧
      ((∃ k, k < n ∧ memType s.cfg (pa + k) = .wb ∧ lo ≤ pa + k ∧ pa + k < lo + size) →
        y.monitor = .triggered ∧ y.activity ≠ .mwaitWait) ∧
      ((∀ k, k < n → ¬ (memType s.cfg (pa + k) = .wb ∧ lo ≤ pa + k ∧ pa + k < lo + size)) →
        y.monitor = x.monitor ∧ y.activity = x.activity)

/-- R142, R145, R148 (d): an entry of CLFLUSH or CLFLUSHOPT, performed, leaves Q_p, writes its line back where it is
Modified and invalidates it; no byte of Coh, no other byte of Mem, no other line, no other entry and no register changes;
a monitor armed on the line may be triggered, which ends an MWAIT, and no other is. -/
def Obligations.FlushPerformed : Prop :=
  ∀ (s : State) (p i b : Nat) (x : Proc), s.Inv → s.procs[p]? = some x →
    (x.queue[i]? = some (.cf (lineOf s.cfg b)) ∨ x.queue[i]? = some (.co (lineOf s.cfg b))) →
    mayPerform s.cfg x.queue i = true → (s.busLock = none ∨ s.busLock = some p) →
    let l := lineOf s.cfg b
    ∃ t, doEvent s (.perform p i) = .next t ∧ t.coh = s.coh ∧
      (∀ a, readByte t.mem a = if l ≤ a ∧ a < l + s.cfg.line then readByte s.coh a else readByte s.mem a) ∧
      t.lineState l = .invalid ∧ (∀ k, k ≠ l → t.lineState k = s.lineState k) ∧
      t.procs.length = s.procs.length ∧
      (∀ (q : Nat) (z : Proc), s.procs[q]? = some z → ∃ y, t.procs[q]? = some y ∧
        FlushSeen l s.cfg.line (if q = p then { z with queue := z.queue.eraseIdx i } else z) y) ∧
      t = { s with procs := t.procs, mem := t.mem, lines := t.lines }

/-- R142, R145, R192: an entry of CLWB, performed, leaves Q_p and writes its line back where it is Modified, which is then
Clean or Invalid, and Invalid if it was so before; nothing else changes but that a monitor armed on the line may be
triggered, which ends an MWAIT. -/
def Obligations.ClwbPerformed : Prop :=
  ∀ (s : State) (p i b : Nat) (x : Proc), s.Inv → s.procs[p]? = some x →
    x.queue[i]? = some (.cw (lineOf s.cfg b)) →
    mayPerform s.cfg x.queue i = true → (s.busLock = none ∨ s.busLock = some p) →
    let l := lineOf s.cfg b
    ∃ t, doEvent s (.perform p i) = .next t ∧ t.coh = s.coh ∧
      (∀ a, readByte t.mem a = if l ≤ a ∧ a < l + s.cfg.line then readByte s.coh a else readByte s.mem a) ∧
      (t.lineState l = .invalid ∨ s.lineState l ≠ .invalid ∧ t.lineState l = .clean) ∧ (∀ k, k ≠ l → t.lineState k = s.lineState k) ∧
      t.procs.length = s.procs.length ∧
      (∀ (q : Nat) (z : Proc), s.procs[q]? = some z → ∃ y, t.procs[q]? = some y ∧
        FlushSeen l s.cfg.line (if q = p then { z with queue := z.queue.eraseIdx i } else z) y) ∧
      t = { s with procs := t.procs, mem := t.mem, lines := t.lines }

/-- R148 (a): after W(a); flush of a's line; SFENCE; ..., once the marker is gone Mem holds the value W wrote,
whatever the memory system and the caches did in between, where no other pending write covers a. The flush may be
CLFLUSH, CLFLUSHOPT or CLWB. -/
def Obligations.FlushAndFencePersist : Prop :=
  ∀ (s t : State) (evs : List Event) (p a pa n : Nat) (v : W64) (e : QEntry) (rest : List QEntry) (x y : Proc),
    s.Inv → s.procs[p]? = some x → x.queue = .w pa n v :: e :: .sf :: rest →
    (e = .cf (lineOf s.cfg a) ∨ e = .co (lineOf s.cfg a) ∨ e = .cw (lineOf s.cfg a)) →
    pa ≤ a → a < pa + n → (∀ k, k < n → memType s.cfg (pa + k) = .wb) →
    (∀ f ∈ rest, f.writes a = false) →
    (∀ (q : Nat) (z : Proc), q ≠ p → s.procs[q]? = some z → ∀ f ∈ z.queue, f.writes a = false) →
    (∀ ev ∈ evs, ev.ofMemory = true) → runEvents s evs = some t → t.procs[p]? = some y →
    y.queue.length ≤ rest.length →
    readByte t.mem a = v.extractLsb' (8 * (a - pa)) 8

/-- R141, R148 (d): what the caches do by themselves changes no byte of Coh and no processor. That it triggers no armed
monitor, which U23 leaves open, is the model's choice (log 17). -/
def Obligations.SpontaneousStepsAreInvisible : Prop :=
  ∀ (s t : State) (pa : Nat) (e : Event) (drop : Bool), (e = .fill pa ∨ e = .evict pa ∨ e = .writeBack pa drop) →
    doEvent s e = .next t →
    t.coh = s.coh ∧ t.procs = s.procs ∧ t = { s with mem := t.mem, lines := t.lines }

/-! ## The referenced instructions -/

/-- R95, R242: XCHG with an empty queue and a free bus lock on ordinary memory, at any alignment and wherever the
bytes lie: the old bytes go to the register, the register's bytes are in Coh at once, no other byte of Coh changes,
and the lock is free afterwards. The upper bits of the register are zero for a narrow operand by the model's choice
(log 22), as are those outside 64-bit mode; so is that it runs at every privilege level (log 24) and without a segment
check (log 28). -/
def Obligations.XchgIsOneVisibleStep : Prop :=
  ∀ (s : State) (p len : Nat) (x : Proc) (a : AddrExpr) (r : Gpr) (w : Width) (pas : List Nat) (tb : List AddrSpace),
    s.Canonical → s.procs[p]? = some x → x.queue = [] → (s.busLock = none ∨ s.busLock = some p) →
    translateBytes s p x .write (x.linearOf a) w.bytes = .ok pas tb →
    (∀ pa ∈ pas, pa < 2 ^ s.cfg.paBits ∧ isBacked s.cfg pa = true ∧ inApicPage pa = false ∧
      memType s.cfg pa ≠ .wc) →
    let bytes := (List.range w.bytes).map fun i => (x.sized (x.reg r)).extractLsb' (8 * i) 8
    ∃ t y, execStep (.xchg a r w) len p x s = .next t ∧ t.procs[p]? = some y ∧
      y.reg r = x.sized (valueOf (pas.map (readByte s.coh))) ∧
      (∀ r', r' ≠ r → y.reg r' = x.reg r') ∧ y.queue = [] ∧ y.eflags = x.eflags ∧
      y.pc = x.sized (x.pc + BitVec.ofNat 64 len) ∧
      (∀ k, readByte t.coh k = (writtenAt (pas.zip bytes) k).getD (readByte s.coh k)) ∧
      t.busLock = none

/-- R93, R243: LOCK on another instruction, or with a register destination, raises #UD. -/
def Obligations.InvalidLockRaises : Prop :=
  ∀ (s : State) (p len : Nat) (x : Proc),
    execStep .lockInvalid len p x s = .next (s.setProc p { x with ended := some ⟨.ud, none, x.pc⟩ })

/-- R250, R251: a serializing step that may run does nothing while Q_p is not empty. That a wait leaves the state as it
is, but for the mark of a processor that waits for its whole core, is the model's choice (log 16); that RDMSR is among
these steps is the model's reading of R259 (log 24). -/
def Obligations.SerializingStepsWait : Prop :=
  ∀ (s : State) (p len : Nat) (x : Proc) (e : AbsStep), e.isSerializing = true → x.queue ≠ [] →
    (e.isPrivileged = true → x.cpl = 0#2) →
    execStep e len p x s = .next (if e.coreWide x then s.setProc p { x with serializing := true } else s)

/-- R300, U21: a privileged step above CPL 0 raises #GP(0), which the spec marks as general knowledge, and has no
other effect; the run ends with the outcome (D10, log 7). That RDMSR is among them is the model's reading of R259
(log 24). -/
def Obligations.PrivilegedStepsFault : Prop :=
  ∀ (s : State) (p len : Nat) (x : Proc) (e : AbsStep), e.isPrivileged = true → x.cpl ≠ 0#2 →
    execStep e len p x s = .next (s.setProc p { x with ended := some ⟨.gp, some 0#32, x.pc⟩ })

/-- R253: WBINVD leaves every line Invalid and every byte of Mem at its coherent value. -/
def Obligations.WbinvdWritesEverythingBack : Prop :=
  ∀ (s : State) (p len : Nat) (x : Proc), s.Inv → s.procs[p]? = some x → x.cpl = 0#2 → x.queue = [] →
    (∀ (q : Nat) (z : Proc), s.procs[q]? = some z → z.queue = []) →
    ∃ t, execStep .wbinvd len p x s = .next t ∧ t.coh = s.coh ∧
      (∀ l, t.lineState l = .invalid) ∧ ∀ a, readByte t.mem a = readByte s.coh a

/-- R254: INVD leaves every line Invalid; modified data is lost, so that every byte reads as Mem holds it. -/
def Obligations.InvdLosesModifiedData : Prop :=
  ∀ (s : State) (p len : Nat) (x : Proc), s.Inv → s.procs[p]? = some x → x.cpl = 0#2 → x.queue = [] →
    (∀ (q : Nat) (z : Proc), s.procs[q]? = some z → z.queue = []) →
    ∃ t, execStep .invd len p x s = .next t ∧ t.mem = s.mem ∧
      (∀ l, t.lineState l = .invalid) ∧ ∀ a, readByte t.coh a = readByte s.mem a

/-- R257, R258: MOV to CR3 loads CR3 and drops exactly the processor's own cached translations that are not
global. That every value is legal is the model's choice (log 28). -/
def Obligations.MovCr3KeepsGlobalTranslations : Prop :=
  ∀ (s : State) (p len : Nat) (x : Proc) (v : Src), s.procs[p]? = some x → x.cpl = 0#2 → x.queue = [] →
    ∃ t y, execStep (.movCr3 v) len p x s = .next t ∧ t.procs[p]? = some y ∧ y.cr3 = x.src v ∧
      y.gpr = x.gpr ∧ y.pc = x.sized (x.pc + BitVec.ofNat 64 len) ∧
      ∀ e, e ∈ t.tlb ↔ e ∈ s.tlb ∧ (e.owner ≠ p ∨ e.page.global = true)

/-- R252: CPUID writes EAX, EBX, ECX and EDX with the answer to EAX and ECX, and nothing else of the registers, and no
memory; no other processor changes. That the upper halves of the four become zero is the model's choice (log 22). -/
def Obligations.CpuidWritesFourRegisters : Prop :=
  ∀ (s : State) (p len : Nat) (x : Proc), s.procs[p]? = some x → x.queue = [] →
    let leaf : W32 := (x.reg .rax).setWidth 32
    let o := if leaf = 5#32 then cpuidAt s p leaf ((x.reg .rcx).setWidth 32)
      else cpuid s.cfg p leaf ((x.reg .rcx).setWidth 32)
    ∃ t y, execStep .cpuid len p x s = .next t ∧ t.procs[p]? = some y ∧
      y.reg .rax = o.eax.setWidth 64 ∧ y.reg .rbx = o.ebx.setWidth 64 ∧ y.reg .rcx = o.ecx.setWidth 64 ∧
      y.reg .rdx = o.edx.setWidth 64 ∧
      (∀ r, r ≠ .rax → r ≠ .rbx → r ≠ .rcx → r ≠ .rdx → y.reg r = x.reg r) ∧
      y = { x with gpr := y.gpr, pc := x.sized (x.pc + BitVec.ofNat 64 len), stale := [] } ∧
      (∀ q, q ≠ p → t.procs[q]? = s.procs[q]?) ∧
      t = { s with procs := t.procs }

/-- R7, R37, R252: CPUID reports the line size in EBX[15:8] of leaf 1, in units of 8 bytes, and the feature flags at
their places; ECX counts for leaves 4, 7, 0BH and 1FH alone; the signature reads back (R340), its places in EAX being
the family's (log 23). -/
def Obligations.CpuidReportsParameters : Prop :=
  ∀ (c : Config) (p : Nat) (leaf sub : W32),
    (8 ≤ c.line → c.line ≤ 1024 → ((cpuid c p 1#32 sub).ebx.extractLsb' 8 8).toNat * 8 = c.line) ∧
    (cpuid c p 1#32 sub).edx.getLsbD 19 = c.hasClfsh ∧ (cpuid c p 1#32 sub).edx.getLsbD 25 = c.hasSse ∧
    (cpuid c p 1#32 sub).edx.getLsbD 26 = c.hasSse2 ∧ (cpuid c p 1#32 sub).edx.getLsbD 28 = c.hasHwMt ∧
    (cpuid c p 1#32 sub).ecx.getLsbD 3 = c.hasMonitor ∧
    (cpuid c p 7#32 0#32).ebx.getLsbD 23 = c.hasClflushopt ∧ (cpuid c p 7#32 0#32).ebx.getLsbD 24 = c.hasClwb ∧
    (leaf ≠ 4#32 → leaf ≠ 7#32 → leaf ≠ 0x0B#32 → leaf ≠ 0x1F#32 → cpuid c p leaf sub = cpuid c p leaf 0#32) ∧
    signatureOf (cpuid c p 1#32 sub).eax = c.signature

/-- R259, R307: a WRMSR of any MSR but the x2APIC ones reads back, IA32_APIC_BASE with the BSP flag in bit 8; one of a
word of the last-branch-record stack changes that word of the processor's own stack alone. That WRMSR stores every bit is
the model's choice (log 24), so are that bit 10 sets x2APIC mode where it is supported (log 20) and what a word of the
last-branch-record stack is (log 40). -/
def Obligations.MsrReadsBack : Prop :=
  ∀ (s : State) (p : Nat) (x : Proc) (m : Msr) (v : W64), s.procs[p]? = some x → m.isX2apic = false →
    ∃ y, (writeMsr s p m v).procs[p]? = some y ∧ readMsr (writeMsr s p m v) p y m = v ∧
      (m = .apicBase → y = { x with bspFlag := v.getLsbD 8, x2apic := s.cfg.hasX2apic && v.getLsbD 10 }) ∧
      (∀ n, m = .lbr n → y = { x with lbr := y.lbr } ∧ (writeMsr s p m v).msrs = s.msrs ∧
        ∀ k, k ≠ n → readMsr (writeMsr s p m v) p y (.lbr k) = readMsr s p x (.lbr k)) ∧
      (m ≠ .apicBase → (∀ n, m ≠ .lbr n) → y = x)

/-- R41: an MTRR written by one logical processor reads the same on every logical processor of its core, and is
unchanged on those of another core, of the same package or of another. That the value read is the value written, bit
for bit, is the model's choice (log 24). -/
def Obligations.MtrrsAreSharedByTheCore : Prop :=
  ∀ (s : State) (p q n : Nat) (x : Proc) (v : W64),
    (coreOf s.cfg q = coreOf s.cfg p → readMsr (writeMsr s p (.mtrr n) v) q x (.mtrr n) = v) ∧
    (coreOf s.cfg q ≠ coreOf s.cfg p →
      readMsr (writeMsr s p (.mtrr n) v) q x (.mtrr n) = readMsr s q x (.mtrr n))

/-- R262: CLI clears IF and STI sets it; no other flag and no register but pc changes. That both run at every privilege
level is the model's choice (log 24). -/
def Obligations.CliAndStiWriteTheInterruptFlag : Prop :=
  ∀ (s : State) (p len : Nat) (x : Proc),
    execStep .cli len p x s = .next (s.setProc p
      { x with eflags := { x.eflags with ifFlag := false }, pc := x.sized (x.pc + BitVec.ofNat 64 len) }) ∧
    execStep .sti len p x s = .next (s.setProc p
      { x with eflags := { x.eflags with ifFlag := true }, pc := x.sized (x.pc + BitVec.ofNat 64 len) })

/-- R264: MWAIT, where it is available, is a NOP when the monitor is triggered, and waits when it is armed. That it does so
whatever EAX and ECX hold is the model's choice (log 28). -/
def Obligations.MwaitWaitsOnAnArmedMonitor : Prop :=
  ∀ (s : State) (p len : Nat) (x : Proc), s.cfg.hasMonitor = true → (x.cpl = 0#2 ∨ s.cfg.monitorAtCpl3 = true) →
    (x.monitor = .triggered → execStep .mwait len p x s =
      .next (s.setProc p { x with pc := x.sized (x.pc + BitVec.ofNat 64 len) })) ∧
    (∀ lo size, x.monitor = .armed lo size → execStep .mwait len p x s =
      .next (s.setProc p { x with activity := .mwaitWait, pc := x.sized (x.pc + BitVec.ofNat 64 len) }))

/-! ## Interrupts, messages and errors -/

/-- R308, R331: a halted processor takes a maskable interrupt when IF = 1 and none when IF = 0; NMI and SMI always,
where STPCLK# is not asserted (R309) and, for the interrupt, the bus lock lets its vector be acknowledged (R92). It is
Running then, at the code its vector identifies, with the pc it was halted at saved. Where delivery keeps that pc, and
that no general register, no entry of Q_p and no byte of Coh or Mem changes, is the model's choice (log 18), which
R293 lets no program assume. -/
def Obligations.HaltedProcessorsWake : Prop :=
  ∀ (s : State) (p : Nat) (v : Byte) (x : Proc), s.procs[p]? = some x → x.activity = .halted →
    stopped s p = false → (s.busLock = none ∨ s.busLock = some p) →
    (x.eflags.ifFlag = false → doEvent s (.interrupt p v) = .next s) ∧
    ∀ e h, (e = .nmi p ∧ h = .nmi ∨ e = .smi p ∧ h = .smi ∨
        e = .interrupt p v ∧ h = .vector v ∧ x.eflags.ifFlag = true) →
      ∃ t y, doEvent s e = .next t ∧ t.procs[p]? = some y ∧ y.activity = .running ∧ y.pc = x.sized (handlerOf s x h) ∧
        y.handlers = x.pc :: x.handlers ∧ y.gpr = x.gpr ∧ y.queue = x.queue ∧ t.coh = s.coh ∧ t.mem = s.mem

/-- R292, R295: IRET takes back the instruction pointer that delivery saved last, once Q_p is empty; that
nothing else is restored is the model's choice (log 18). -/
def Obligations.IretReturnsToTheSavedPc : Prop :=
  ∀ (s : State) (p len : Nat) (x : Proc) (pc : W64) (older : List W64), x.queue = [] → x.handlers = pc :: older →
    s.procs[p]? = some x →
    ∃ t, execStep .iret len p x s = .next t ∧
      t.procs[p]? = some { x with pc := x.sized pc, handlers := older, stale := [] } ∧
      execStep .rsm len p x s = .next t

/-- R332, R353, R355: INIT, asserted or as the message delivered next, sends a processor that can take it by its BSP
flag to the reset vector or to wait-for-SIPI; a SIPI with vector VV, delivered, starts a waiting processor at VV times
4096 in real-address mode and does nothing to any other. No entry of Q_p and no general register is lost, which is the
model's choice (log 12). A processor in `Shutdown`, in `StopGrant` or still in the hardware selection takes
no INIT, and one whose package has STPCLK# asserted takes neither, by the model's choice (log 25), as it is that both are
taken with bit 8 of SVR clear (log 20). -/
def Obligations.InitAndSipi : Prop :=
  ∀ (s : State) (p : Nat) (x : Proc), s.procs[p]? = some x →
    (stopped s p = true ∨ x.canTake .init = false → doEvent s (.init p) = .next s) ∧
    (stopped s p = false → x.canTake .init = true →
      ∃ y, doEvent s (.init p) = .next (s.setProc p y) ∧ AfterInit x y) ∧
    (stopped s p = true → doEvent s (.deliver p) = .next s) ∧
    (stopped s p = false → ∀ m, nextMessage s p x = some m →
      (m.kind = .init → ∃ y, AfterInit x y ∧
        doEvent s (.deliver p) = .next (State.setProc { s with ipis := s.ipis.erase m } p y)) ∧
      ∀ vv, m.kind = .sipi vv → ∃ y, AfterSipi x y vv ∧
        doEvent s (.deliver p) = .next (State.setProc { s with ipis := s.ipis.erase m } p y))

/-- R305: a doubleword store of 000C4500H to ICR_LOW in xAPIC mode, performed, sends INIT to every processor but the
sender, one of 000C46XXH a SIPI with vector XX; the sender's activity stays. That it is sent with bit 8 of SVR clear
too, and that ICR_LOW reads back all 32 bits, is the model's choice (log 20). -/
def Obligations.IcrBroadcasts : Prop :=
  ∀ (s : State) (p i : Nat) (x : Proc) (v : W64) (vv : Byte) (k : IpiKind), s.procs[p]? = some x → x.x2apic = false →
    x.queue[i]? = some (.w 0xFEE00300 4 v) → mayPerform s.cfg x.queue i = true →
    (s.busLock = none ∨ s.busLock = some p) →
    (v = 0xC4500#64 ∧ k = .init ∨ v = 0xC4600#64 + vv.setWidth 64 ∧ k = .sipi vv) →
    ∃ t y, doEvent s (.perform p i) = .next t ∧ t.procs[p]? = some y ∧ y.activity = x.activity ∧
      y.apic.icrLow = v.setWidth 32 ∧
      t.ipis = s.ipis ++ ((List.range s.cfg.nproc).filter (· != p)).map fun q => ⟨some q, k⟩

/-- R297, R334: a fatal machine-check error ends the run of a processor of the package with #MC where CR4.MCE is
set, and shuts it down where it is clear, asserting IERR#; other packages are not touched. That the dispatch
to the handler ends the run with an outcome #MC, and that a processor in `StopGrant` or still in the hardware selection
is met too, is the model's choice (log 25). -/
def Obligations.MachineCheckOutcome : Prop :=
  ∀ (s : State) (k p : Nat) (x : Proc), s.procs[p]? = some x → x.activity ≠ .shutdown → x.ended = none →
    ∃ t y, doEvent s (.machineCheck k) = .next t ∧ t.procs[p]? = some y ∧
      (packageOf s.cfg p = k ∧ x.cr4.mce = true → y = { x with ended := some ⟨.mc, none, x.pc⟩ }) ∧
      (packageOf s.cfg p = k ∧ x.cr4.mce = false →
        y = { x with activity := .shutdown } ∧ ∀ w, s.pins[k]? = some w → t.pins[k]? = some { w with ierr := true }) ∧
      (packageOf s.cfg p ≠ k → y = x)

/-! ## Topology -/

/-- R320: FindMaskWidth(c) is the least w with 2^w >= c, for c from 2 to 65536. -/
def Obligations.FindMaskWidthIsLeast : Prop :=
  ∀ c : W32, 2 ≤ c.toNat → c.toNat ≤ 65536 →
    c.toNat ≤ 2 ^ findMaskWidth c ∧ ∀ w, c.toNat ≤ 2 ^ w → findMaskWidth c ≤ w

/-- R319, R321: with a first level of type SMT and shifts that do not fall and stay below 32, the three masks are
disjoint and cover the ID, so that the three IDs put together are the ID. -/
def Obligations.TopologyMasksPartitionTheId : Prop :=
  ∀ (l : List TopoLevel) (m : TopoMasks) (id : W32), topoMasks l = some m →
    (validLevels l).Pairwise (fun a b => a.shift.toNat ≤ b.shift.toNat) →
    m.smt &&& m.core = 0#32 ∧ m.core &&& m.package = 0#32 ∧ m.smt &&& m.package = 0#32 ∧
    (topoIds m id).1 ||| (topoIds m id).2.1 ||| (topoIds m id).2.2 = id
end

