-- ==== Sys2Proof/Laws/Memory.lean ====
section
/-! SUPPORT. The laws of the maps in canonical form: a read after a write, and the form kept by every memory
operation. -/

namespace Sys2Proof.Machine

open Sys2Proof

variable {α : Type} [DecidableEq α] {d : α}

/-! ## One map -/

theorem mwfFrom_mono {lo lo' : Nat} {m : List (Nat × α)} (h : mwfFrom d lo m = true) (hl : lo' ≤ lo) :
    mwfFrom d lo' m = true := by
  cases m with
  | nil => rfl
  | cons e t =>
    simp [mwfFrom] at h ⊢
    exact ⟨⟨by omega, h.1.2⟩, h.2⟩

/-- A key below every listed one reads as unlisted. -/
theorem mget_below {lo a : Nat} {m : List (Nat × α)} (h : mwfFrom d lo m = true) (ha : a < lo) :
    mget d m a = d := by
  induction m generalizing lo with
  | nil => rfl
  | cons e t ih =>
    simp [mwfFrom] at h
    have hne : e.1 ≠ a := by omega
    simp [mget, hne, ih h.2 (by omega)]

theorem mget_mentry (a b : Nat) (v : α) (t : List (Nat × α)) :
    mget d (mentry d a v ++ t) b = if b = a then (if v = d then mget d t b else v) else mget d t b := by
  by_cases hv : v = d <;> by_cases hb : b = a <;> simp [mentry, mget, hv, hb]
  intro hh
  exact absurd hh.symm hb

/-- A read after a write. -/
theorem mget_mset {lo : Nat} {m : List (Nat × α)} (h : mwfFrom d lo m = true) (a b : Nat) (v : α) :
    mget d (mset d m a v) b = if b = a then v else mget d m b := by
  induction m generalizing lo with
  | nil =>
    have := mget_mentry (d := d) a b v []
    simp only [List.append_nil] at this
    simp only [mset, this]
    split <;> simp_all [mget]
  | cons e t ih =>
    obtain ⟨k, w⟩ := e
    simp [mwfFrom] at h
    simp only [mset]
    split
    · rename_i hlt
      rw [mget_mentry]
      split
      · rename_i hb
        subst hb
        have hk : k ≠ b := by omega
        split
        · rename_i hv
          simp [mget, hk, mget_below h.2 (by omega : b < k + 1), hv]
        · rfl
      · rfl
    · split
      · rename_i hnlt hak
        subst hak
        rw [mget_mentry]
        split
        · rename_i hb
          subst hb
          split
          · rename_i hv
            rw [mget_below h.2 (by omega), hv]
          · rfl
        · rename_i hb
          have : a ≠ b := fun hh => hb hh.symm
          simp [mget, this]
      · rename_i hnlt hak
        simp only [mget]
        rw [ih h.2]
        by_cases hkb : k = b
        · have : b ≠ a := by omega
          simp [hkb, this]
        · simp [hkb]

/-- A write keeps the canonical form. -/
theorem mwf_mset {lo : Nat} {m : List (Nat × α)} (h : mwfFrom d lo m = true) {a : Nat} (ha : lo ≤ a) (v : α) :
    mwfFrom d lo (mset d m a v) = true := by
  have entry : ∀ {lo a : Nat} {t : List (Nat × α)}, lo ≤ a → mwfFrom d (a + 1) t = true →
      mwfFrom d lo (mentry d a v ++ t) = true := by
    intro lo a t hla ht
    by_cases hv : v = d
    · simpa [mentry, hv] using mwfFrom_mono ht (by omega)
    · simp [mentry, hv, mwfFrom, hla, ht]
  induction m generalizing lo with
  | nil => simpa [mset] using entry (t := []) ha rfl
  | cons e t ih =>
    obtain ⟨k, w⟩ := e
    simp [mwfFrom] at h
    simp only [mset]
    split
    · exact entry ha (by simp [mwfFrom, h]; omega)
    · split
      · rename_i hak
        subst hak
        exact entry ha h.2
      · have := ih h.2 (by omega)
        simp [mwfFrom, h.1, this]

/-- Maps in canonical form that read the same are the same. -/
theorem mwf_ext {lo : Nat} {m n : List (Nat × α)} (hm : mwfFrom d lo m = true) (hn : mwfFrom d lo n = true)
    (h : ∀ a, mget d m a = mget d n a) : m = n := by
  induction m generalizing lo n with
  | nil =>
    cases n with
    | nil => rfl
    | cons e t =>
      have := h e.1
      simp [mwfFrom] at hn
      simp [mget] at this
      exact absurd this.symm hn.1.2
  | cons e t ih =>
    obtain ⟨k, v⟩ := e
    simp [mwfFrom] at hm
    cases n with
    | nil =>
      have := h k
      simp [mget] at this
      exact absurd this hm.1.2
    | cons e' t' =>
      obtain ⟨k', v'⟩ := e'
      simp [mwfFrom] at hn
      have hkk : k = k' := by
        rcases Nat.lt_trichotomy k k' with hlt | heq | hgt
        · have := h k
          have hne : k' ≠ k := by omega
          simp [mget, hne, mget_below hn.2 (by omega : k < k' + 1)] at this
          exact absurd this hm.1.2
        · exact heq
        · have := h k'
          have hne : k ≠ k' := by omega
          simp [mget, hne, mget_below hm.2 (by omega : k' < k + 1)] at this
          exact absurd this.symm hn.1.2
      subst hkk
      have hv : v = v' := by simpa [mget] using h k
      subst hv
      have ht : t = t' := by
        refine ih hm.2 hn.2 fun a => ?_
        by_cases ha : k = a
        · subst ha
          rw [mget_below hm.2 (by omega), mget_below hn.2 (by omega)]
        · simpa [mget, ha] using h a
      rw [ht]

/-! ## Byte memories -/

theorem readByte_writeByte {m : List Host.Cell} (h : Memory.wf m = true) (a b : Nat) (v : Byte) :
    readByte (writeByte m a v) b = if b = a then v else readByte m b := mget_mset h a b v

theorem wf_writeByte {m : List Host.Cell} (h : Memory.wf m = true) (a : Nat) (v : Byte) :
    Memory.wf (writeByte m a v) = true := mwf_mset h (Nat.zero_le _) v

theorem wf_copyBytes {dst : List Host.Cell} (src : List Host.Cell) (h : Memory.wf dst = true) (a n : Nat) :
    Memory.wf (copyBytes src dst a n) = true := by
  induction n generalizing dst a with
  | zero => exact h
  | succ n ih => exact ih (wf_writeByte h _ _) _

theorem readByte_copyBytes {dst : List Host.Cell} (src : List Host.Cell) (h : Memory.wf dst = true) (a n b : Nat) :
    readByte (copyBytes src dst a n) b = if a ≤ b ∧ b < a + n then readByte src b else readByte dst b := by
  induction n generalizing dst a with
  | zero => simp [copyBytes]
  | succ n ih =>
    rw [copyBytes, ih (wf_writeByte h _ _), readByte_writeByte h]
    by_cases hb : b = a
    · subst hb; simp
    · have : (a + 1 ≤ b ∧ b < a + 1 + n) ↔ (a ≤ b ∧ b < a + (n + 1)) := by omega
      simp only [this, hb, if_false]

/-! ## Line states -/

theorem lineState_setLine {s : State} (h : linesWf s.lines = true) (l k : Nat) (v : LineState) :
    (s.setLine l v).lineState k = if k = l then v else s.lineState k := mget_mset h l k v

theorem wf_setLine {s : State} (h : linesWf s.lines = true) (l : Nat) (v : LineState) :
    linesWf (s.setLine l v).lines = true := mwf_mset h (Nat.zero_le _) v

/-- An unlisted line is Invalid, and a line that is not Invalid is listed. -/
theorem mem_listedLines {s : State} {l : Nat} (h : s.lineState l ≠ .invalid) : l ∈ s.listedLines := by
  have key : ∀ m : List (Nat × LineState), mget .invalid m l ≠ .invalid → l ∈ m.map (·.1) := by
    intro m
    induction m with
    | nil => intro h; exact absurd rfl h
    | cons e t ih =>
      intro h
      by_cases he : e.1 = l
      · simp [he]
      · simp only [mget, he, if_false] at h
        exact List.mem_cons_of_mem _ (ih h)
  exact key _ h

/-! ## Lines and addresses -/

theorem lineOf_le (c : Config) (a : Nat) : lineOf c a ≤ a := Nat.div_mul_le_self _ _

theorem line_pos (c : Config) : 0 < c.line := Nat.two_pow_pos _

theorem lt_lineOf_add (c : Config) (a : Nat) : a < lineOf c a + c.line := by
  have := Nat.div_add_mod a c.line
  have := Nat.mod_lt a (line_pos c)
  unfold lineOf
  rw [Nat.mul_comm]
  omega

/-- The line of a line's address is that line. -/
theorem lineOf_lineOf (c : Config) (a : Nat) : lineOf c (lineOf c a) = lineOf c a := by
  unfold lineOf
  rw [Nat.mul_div_cancel _ (line_pos c)]

/-- The addresses of an aligned line are those whose line it is. -/
theorem lineOf_eq_iff (c : Config) (b a : Nat) :
    lineOf c a = lineOf c b ↔ lineOf c b ≤ a ∧ a < lineOf c b + c.line := by
  constructor
  · intro h
    rw [← h]
    exact ⟨lineOf_le c a, lt_lineOf_add c a⟩
  · rintro ⟨h1, h2⟩
    have h3 := lineOf_le c a
    have h4 := lt_lineOf_add c a
    unfold lineOf at *
    have hp := line_pos c
    have : a / c.line = b / c.line := by
      apply Nat.div_eq_of_lt_le
      · rw [Nat.mul_comm] at h1 ⊢; omega
      · rw [Nat.succ_mul]; omega
    rw [this]

end Sys2Proof.Machine
end

