-- ==== Sys2Proof/Laws/State.lean ====
section
/-! SUPPORT. One lemma per field per update, true by rfl, so that no proof unfolds a record update. -/

namespace Sys2Proof.Machine

open Sys2Proof

/-! ## State -/

@[simp] theorem State.setProc_cfg (s : State) (p : Nat) (x : Proc) : (s.setProc p x).cfg = s.cfg := rfl
@[simp] theorem State.setProc_procs (s : State) (p : Nat) (x : Proc) :
    (s.setProc p x).procs = s.procs.set p x := rfl
@[simp] theorem State.setProc_coh (s : State) (p : Nat) (x : Proc) : (s.setProc p x).coh = s.coh := rfl
@[simp] theorem State.setProc_mem (s : State) (p : Nat) (x : Proc) : (s.setProc p x).mem = s.mem := rfl
@[simp] theorem State.setProc_lines (s : State) (p : Nat) (x : Proc) : (s.setProc p x).lines = s.lines := rfl
@[simp] theorem State.setProc_tables (s : State) (p : Nat) (x : Proc) : (s.setProc p x).tables = s.tables := rfl
@[simp] theorem State.setProc_descriptors (s : State) (p : Nat) (x : Proc) : (s.setProc p x).descriptors = s.descriptors := rfl
@[simp] theorem State.setProc_tlb (s : State) (p : Nat) (x : Proc) : (s.setProc p x).tlb = s.tlb := rfl
@[simp] theorem State.setProc_msrs (s : State) (p : Nat) (x : Proc) : (s.setProc p x).msrs = s.msrs := rfl
@[simp] theorem State.setProc_busLock (s : State) (p : Nat) (x : Proc) : (s.setProc p x).busLock = s.busLock := rfl
@[simp] theorem State.setProc_ipis (s : State) (p : Nat) (x : Proc) : (s.setProc p x).ipis = s.ipis := rfl
@[simp] theorem State.setProc_pins (s : State) (p : Nat) (x : Proc) : (s.setProc p x).pins = s.pins := rfl
@[simp] theorem State.setProc_ioTrace (s : State) (p : Nat) (x : Proc) : (s.setProc p x).ioTrace = s.ioTrace := rfl
@[simp] theorem State.setProc_agenda (s : State) (p : Nat) (x : Proc) : (s.setProc p x).agenda = s.agenda := rfl
@[simp] theorem State.setProc_turn (s : State) (p : Nat) (x : Proc) : (s.setProc p x).turn = s.turn := rfl
@[simp] theorem State.setProc_tick (s : State) (p : Nat) (x : Proc) : (s.setProc p x).tick = s.tick := rfl
@[simp] theorem State.setProc_cur (s : State) (p : Nat) (x : Proc) : (s.setProc p x).cur = s.cur := rfl
@[simp] theorem State.updProc_cfg (s : State) (p : Nat) (f : Proc → Proc) : (s.updProc p f).cfg = s.cfg := rfl
@[simp] theorem State.updProc_procs (s : State) (p : Nat) (f : Proc → Proc) :
    (s.updProc p f).procs = s.procs.modify p f := rfl
@[simp] theorem State.updProc_coh (s : State) (p : Nat) (f : Proc → Proc) : (s.updProc p f).coh = s.coh := rfl
@[simp] theorem State.updProc_mem (s : State) (p : Nat) (f : Proc → Proc) : (s.updProc p f).mem = s.mem := rfl
@[simp] theorem State.updProc_lines (s : State) (p : Nat) (f : Proc → Proc) : (s.updProc p f).lines = s.lines := rfl
@[simp] theorem State.updProc_tables (s : State) (p : Nat) (f : Proc → Proc) : (s.updProc p f).tables = s.tables := rfl
@[simp] theorem State.updProc_descriptors (s : State) (p : Nat) (f : Proc → Proc) : (s.updProc p f).descriptors = s.descriptors := rfl
@[simp] theorem State.updProc_tlb (s : State) (p : Nat) (f : Proc → Proc) : (s.updProc p f).tlb = s.tlb := rfl
@[simp] theorem State.updProc_msrs (s : State) (p : Nat) (f : Proc → Proc) : (s.updProc p f).msrs = s.msrs := rfl
@[simp] theorem State.updProc_busLock (s : State) (p : Nat) (f : Proc → Proc) : (s.updProc p f).busLock = s.busLock := rfl
@[simp] theorem State.updProc_ipis (s : State) (p : Nat) (f : Proc → Proc) : (s.updProc p f).ipis = s.ipis := rfl
@[simp] theorem State.updProc_pins (s : State) (p : Nat) (f : Proc → Proc) : (s.updProc p f).pins = s.pins := rfl
@[simp] theorem State.updProc_ioTrace (s : State) (p : Nat) (f : Proc → Proc) : (s.updProc p f).ioTrace = s.ioTrace := rfl
@[simp] theorem State.updProc_agenda (s : State) (p : Nat) (f : Proc → Proc) : (s.updProc p f).agenda = s.agenda := rfl
@[simp] theorem State.updProc_turn (s : State) (p : Nat) (f : Proc → Proc) : (s.updProc p f).turn = s.turn := rfl
@[simp] theorem State.updProc_tick (s : State) (p : Nat) (f : Proc → Proc) : (s.updProc p f).tick = s.tick := rfl
@[simp] theorem State.updProc_cur (s : State) (p : Nat) (f : Proc → Proc) : (s.updProc p f).cur = s.cur := rfl
@[simp] theorem State.setLine_cfg (s : State) (l : Nat) (v : LineState) : (s.setLine l v).cfg = s.cfg := rfl
@[simp] theorem State.setLine_procs (s : State) (l : Nat) (v : LineState) : (s.setLine l v).procs = s.procs := rfl
@[simp] theorem State.setLine_coh (s : State) (l : Nat) (v : LineState) : (s.setLine l v).coh = s.coh := rfl
@[simp] theorem State.setLine_mem (s : State) (l : Nat) (v : LineState) : (s.setLine l v).mem = s.mem := rfl
@[simp] theorem State.setLine_lines (s : State) (l : Nat) (v : LineState) :
    (s.setLine l v).lines = mset .invalid s.lines l v := rfl
@[simp] theorem State.setLine_tables (s : State) (l : Nat) (v : LineState) : (s.setLine l v).tables = s.tables := rfl
@[simp] theorem State.setLine_descriptors (s : State) (l : Nat) (v : LineState) : (s.setLine l v).descriptors = s.descriptors := rfl
@[simp] theorem State.setLine_tlb (s : State) (l : Nat) (v : LineState) : (s.setLine l v).tlb = s.tlb := rfl
@[simp] theorem State.setLine_msrs (s : State) (l : Nat) (v : LineState) : (s.setLine l v).msrs = s.msrs := rfl
@[simp] theorem State.setLine_busLock (s : State) (l : Nat) (v : LineState) : (s.setLine l v).busLock = s.busLock := rfl
@[simp] theorem State.setLine_ipis (s : State) (l : Nat) (v : LineState) : (s.setLine l v).ipis = s.ipis := rfl
@[simp] theorem State.setLine_pins (s : State) (l : Nat) (v : LineState) : (s.setLine l v).pins = s.pins := rfl
@[simp] theorem State.setLine_ioTrace (s : State) (l : Nat) (v : LineState) : (s.setLine l v).ioTrace = s.ioTrace := rfl
@[simp] theorem State.setLine_agenda (s : State) (l : Nat) (v : LineState) : (s.setLine l v).agenda = s.agenda := rfl
@[simp] theorem State.setLine_turn (s : State) (l : Nat) (v : LineState) : (s.setLine l v).turn = s.turn := rfl
@[simp] theorem State.setLine_tick (s : State) (l : Nat) (v : LineState) : (s.setLine l v).tick = s.tick := rfl
@[simp] theorem State.setLine_cur (s : State) (l : Nat) (v : LineState) : (s.setLine l v).cur = s.cur := rfl
@[simp] theorem State.raise_cfg (s : State) (p : Nat) (x : Proc) (k : ExcKind) (c : Option W32) : (raise s p x k c).cfg = s.cfg := rfl
@[simp] theorem State.raise_procs (s : State) (p : Nat) (x : Proc) (k : ExcKind) (c : Option W32) :
    (raise s p x k c).procs = s.procs.set p { x with ended := some ⟨k, c, x.pc⟩ } := rfl
@[simp] theorem State.raise_coh (s : State) (p : Nat) (x : Proc) (k : ExcKind) (c : Option W32) : (raise s p x k c).coh = s.coh := rfl
@[simp] theorem State.raise_mem (s : State) (p : Nat) (x : Proc) (k : ExcKind) (c : Option W32) : (raise s p x k c).mem = s.mem := rfl
@[simp] theorem State.raise_lines (s : State) (p : Nat) (x : Proc) (k : ExcKind) (c : Option W32) : (raise s p x k c).lines = s.lines := rfl
@[simp] theorem State.raise_tables (s : State) (p : Nat) (x : Proc) (k : ExcKind) (c : Option W32) : (raise s p x k c).tables = s.tables := rfl
@[simp] theorem State.raise_descriptors (s : State) (p : Nat) (x : Proc) (k : ExcKind) (c : Option W32) : (raise s p x k c).descriptors = s.descriptors := rfl
@[simp] theorem State.raise_tlb (s : State) (p : Nat) (x : Proc) (k : ExcKind) (c : Option W32) : (raise s p x k c).tlb = s.tlb := rfl
@[simp] theorem State.raise_msrs (s : State) (p : Nat) (x : Proc) (k : ExcKind) (c : Option W32) : (raise s p x k c).msrs = s.msrs := rfl
@[simp] theorem State.raise_busLock (s : State) (p : Nat) (x : Proc) (k : ExcKind) (c : Option W32) : (raise s p x k c).busLock = s.busLock := rfl
@[simp] theorem State.raise_ipis (s : State) (p : Nat) (x : Proc) (k : ExcKind) (c : Option W32) : (raise s p x k c).ipis = s.ipis := rfl
@[simp] theorem State.raise_pins (s : State) (p : Nat) (x : Proc) (k : ExcKind) (c : Option W32) : (raise s p x k c).pins = s.pins := rfl
@[simp] theorem State.raise_ioTrace (s : State) (p : Nat) (x : Proc) (k : ExcKind) (c : Option W32) : (raise s p x k c).ioTrace = s.ioTrace := rfl
@[simp] theorem State.raise_agenda (s : State) (p : Nat) (x : Proc) (k : ExcKind) (c : Option W32) : (raise s p x k c).agenda = s.agenda := rfl
@[simp] theorem State.raise_turn (s : State) (p : Nat) (x : Proc) (k : ExcKind) (c : Option W32) : (raise s p x k c).turn = s.turn := rfl
@[simp] theorem State.raise_tick (s : State) (p : Nat) (x : Proc) (k : ExcKind) (c : Option W32) : (raise s p x k c).tick = s.tick := rfl
@[simp] theorem State.raise_cur (s : State) (p : Nat) (x : Proc) (k : ExcKind) (c : Option W32) : (raise s p x k c).cur = s.cur := rfl

/-! ## Processor -/

@[simp] theorem Proc.goTo_gpr (x : Proc) (v : W64) : (x.goTo v).gpr = x.gpr := rfl
@[simp] theorem Proc.goTo_pc (x : Proc) (v : W64) :
    (x.goTo v).pc = x.sized v := rfl
@[simp] theorem Proc.goTo_eflags (x : Proc) (v : W64) : (x.goTo v).eflags = x.eflags := rfl
@[simp] theorem Proc.goTo_segs (x : Proc) (v : W64) : (x.goTo v).segs = x.segs := rfl
@[simp] theorem Proc.goTo_fpu (x : Proc) (v : W64) : (x.goTo v).fpu = x.fpu := rfl
@[simp] theorem Proc.goTo_mmx (x : Proc) (v : W64) : (x.goTo v).mmx = x.mmx := rfl
@[simp] theorem Proc.goTo_xmm (x : Proc) (v : W64) : (x.goTo v).xmm = x.xmm := rfl
@[simp] theorem Proc.goTo_mxcsr (x : Proc) (v : W64) : (x.goTo v).mxcsr = x.mxcsr := rfl
@[simp] theorem Proc.goTo_cr0 (x : Proc) (v : W64) : (x.goTo v).cr0 = x.cr0 := rfl
@[simp] theorem Proc.goTo_pgInForce (x : Proc) (v : W64) : (x.goTo v).pgInForce = x.pgInForce := rfl
@[simp] theorem Proc.goTo_cr3 (x : Proc) (v : W64) : (x.goTo v).cr3 = x.cr3 := rfl
@[simp] theorem Proc.goTo_cr4 (x : Proc) (v : W64) : (x.goTo v).cr4 = x.cr4 := rfl
@[simp] theorem Proc.goTo_cr8 (x : Proc) (v : W64) : (x.goTo v).cr8 = x.cr8 := rfl
@[simp] theorem Proc.goTo_gdtr (x : Proc) (v : W64) : (x.goTo v).gdtr = x.gdtr := rfl
@[simp] theorem Proc.goTo_ldtr (x : Proc) (v : W64) : (x.goTo v).ldtr = x.ldtr := rfl
@[simp] theorem Proc.goTo_idtr (x : Proc) (v : W64) : (x.goTo v).idtr = x.idtr := rfl
@[simp] theorem Proc.goTo_tr (x : Proc) (v : W64) : (x.goTo v).tr = x.tr := rfl
@[simp] theorem Proc.goTo_dr (x : Proc) (v : W64) : (x.goTo v).dr = x.dr := rfl
@[simp] theorem Proc.goTo_lbr (x : Proc) (v : W64) : (x.goTo v).lbr = x.lbr := rfl
@[simp] theorem Proc.goTo_mode (x : Proc) (v : W64) : (x.goTo v).mode = x.mode := rfl
@[simp] theorem Proc.goTo_cpl (x : Proc) (v : W64) : (x.goTo v).cpl = x.cpl := rfl
@[simp] theorem Proc.goTo_bspFlag (x : Proc) (v : W64) : (x.goTo v).bspFlag = x.bspFlag := rfl
@[simp] theorem Proc.goTo_activity (x : Proc) (v : W64) : (x.goTo v).activity = x.activity := rfl
@[simp] theorem Proc.goTo_monitor (x : Proc) (v : W64) : (x.goTo v).monitor = x.monitor := rfl
@[simp] theorem Proc.goTo_queue (x : Proc) (v : W64) : (x.goTo v).queue = x.queue := rfl
@[simp] theorem Proc.goTo_apic (x : Proc) (v : W64) : (x.goTo v).apic = x.apic := rfl
@[simp] theorem Proc.goTo_x2apic (x : Proc) (v : W64) : (x.goTo v).x2apic = x.x2apic := rfl
@[simp] theorem Proc.goTo_lint0Masked (x : Proc) (v : W64) : (x.goTo v).lint0Masked = x.lint0Masked := rfl
@[simp] theorem Proc.goTo_lint1Masked (x : Proc) (v : W64) : (x.goTo v).lint1Masked = x.lint1Masked := rfl
@[simp] theorem Proc.goTo_smbase (x : Proc) (v : W64) : (x.goTo v).smbase = x.smbase := rfl
@[simp] theorem Proc.goTo_stale (x : Proc) (v : W64) : (x.goTo v).stale = x.stale := rfl
@[simp] theorem Proc.goTo_split (x : Proc) (v : W64) : (x.goTo v).split = x.split := rfl
@[simp] theorem Proc.goTo_ioStore (x : Proc) (v : W64) : (x.goTo v).ioStore = x.ioStore := rfl
@[simp] theorem Proc.goTo_handlers (x : Proc) (v : W64) : (x.goTo v).handlers = x.handlers := rfl
@[simp] theorem Proc.goTo_ended (x : Proc) (v : W64) : (x.goTo v).ended = x.ended := rfl
@[simp] theorem Proc.goTo_refusal (x : Proc) (v : W64) : (x.goTo v).refusal = x.refusal := rfl
@[simp] theorem Proc.goTo_serializing (x : Proc) (v : W64) : (x.goTo v).serializing = x.serializing := rfl
@[simp] theorem Proc.goTo_boot (x : Proc) (v : W64) : (x.goTo v).boot = x.boot := rfl
@[simp] theorem Proc.goTo_program (x : Proc) (v : W64) : (x.goTo v).program = x.program := rfl
/-- The width of pc and the registers depends on the mode alone (R21, R22). -/
theorem Proc.sized_of_mode {x y : Proc} (h : y.mode = x.mode) : y.sized = x.sized := by
  funext v; simp [Proc.sized, h]
@[simp] theorem Proc.advance_gpr (x : Proc) (n : Nat) : (x.advance n).gpr = x.gpr := rfl
@[simp] theorem Proc.advance_pc (x : Proc) (n : Nat) :
    (x.advance n).pc = x.sized (x.pc + BitVec.ofNat 64 n) := rfl
@[simp] theorem Proc.advance_eflags (x : Proc) (n : Nat) : (x.advance n).eflags = x.eflags := rfl
@[simp] theorem Proc.advance_segs (x : Proc) (n : Nat) : (x.advance n).segs = x.segs := rfl
@[simp] theorem Proc.advance_fpu (x : Proc) (n : Nat) : (x.advance n).fpu = x.fpu := rfl
@[simp] theorem Proc.advance_mmx (x : Proc) (n : Nat) : (x.advance n).mmx = x.mmx := rfl
@[simp] theorem Proc.advance_xmm (x : Proc) (n : Nat) : (x.advance n).xmm = x.xmm := rfl
@[simp] theorem Proc.advance_mxcsr (x : Proc) (n : Nat) : (x.advance n).mxcsr = x.mxcsr := rfl
@[simp] theorem Proc.advance_cr0 (x : Proc) (n : Nat) : (x.advance n).cr0 = x.cr0 := rfl
@[simp] theorem Proc.advance_pgInForce (x : Proc) (n : Nat) : (x.advance n).pgInForce = x.pgInForce := rfl
@[simp] theorem Proc.advance_cr3 (x : Proc) (n : Nat) : (x.advance n).cr3 = x.cr3 := rfl
@[simp] theorem Proc.advance_cr4 (x : Proc) (n : Nat) : (x.advance n).cr4 = x.cr4 := rfl
@[simp] theorem Proc.advance_cr8 (x : Proc) (n : Nat) : (x.advance n).cr8 = x.cr8 := rfl
@[simp] theorem Proc.advance_gdtr (x : Proc) (n : Nat) : (x.advance n).gdtr = x.gdtr := rfl
@[simp] theorem Proc.advance_ldtr (x : Proc) (n : Nat) : (x.advance n).ldtr = x.ldtr := rfl
@[simp] theorem Proc.advance_idtr (x : Proc) (n : Nat) : (x.advance n).idtr = x.idtr := rfl
@[simp] theorem Proc.advance_tr (x : Proc) (n : Nat) : (x.advance n).tr = x.tr := rfl
@[simp] theorem Proc.advance_dr (x : Proc) (n : Nat) : (x.advance n).dr = x.dr := rfl
@[simp] theorem Proc.advance_lbr (x : Proc) (n : Nat) : (x.advance n).lbr = x.lbr := rfl
@[simp] theorem Proc.advance_mode (x : Proc) (n : Nat) : (x.advance n).mode = x.mode := rfl
@[simp] theorem Proc.advance_cpl (x : Proc) (n : Nat) : (x.advance n).cpl = x.cpl := rfl
@[simp] theorem Proc.advance_bspFlag (x : Proc) (n : Nat) : (x.advance n).bspFlag = x.bspFlag := rfl
@[simp] theorem Proc.advance_activity (x : Proc) (n : Nat) : (x.advance n).activity = x.activity := rfl
@[simp] theorem Proc.advance_monitor (x : Proc) (n : Nat) : (x.advance n).monitor = x.monitor := rfl
@[simp] theorem Proc.advance_queue (x : Proc) (n : Nat) : (x.advance n).queue = x.queue := rfl
@[simp] theorem Proc.advance_apic (x : Proc) (n : Nat) : (x.advance n).apic = x.apic := rfl
@[simp] theorem Proc.advance_x2apic (x : Proc) (n : Nat) : (x.advance n).x2apic = x.x2apic := rfl
@[simp] theorem Proc.advance_lint0Masked (x : Proc) (n : Nat) : (x.advance n).lint0Masked = x.lint0Masked := rfl
@[simp] theorem Proc.advance_lint1Masked (x : Proc) (n : Nat) : (x.advance n).lint1Masked = x.lint1Masked := rfl
@[simp] theorem Proc.advance_smbase (x : Proc) (n : Nat) : (x.advance n).smbase = x.smbase := rfl
@[simp] theorem Proc.advance_stale (x : Proc) (n : Nat) : (x.advance n).stale = x.stale := rfl
@[simp] theorem Proc.advance_split (x : Proc) (n : Nat) : (x.advance n).split = x.split := rfl
@[simp] theorem Proc.advance_ioStore (x : Proc) (n : Nat) : (x.advance n).ioStore = x.ioStore := rfl
@[simp] theorem Proc.advance_handlers (x : Proc) (n : Nat) : (x.advance n).handlers = x.handlers := rfl
@[simp] theorem Proc.advance_ended (x : Proc) (n : Nat) : (x.advance n).ended = x.ended := rfl
@[simp] theorem Proc.advance_refusal (x : Proc) (n : Nat) : (x.advance n).refusal = x.refusal := rfl
@[simp] theorem Proc.advance_serializing (x : Proc) (n : Nat) : (x.advance n).serializing = x.serializing := rfl
@[simp] theorem Proc.advance_boot (x : Proc) (n : Nat) : (x.advance n).boot = x.boot := rfl
@[simp] theorem Proc.advance_program (x : Proc) (n : Nat) : (x.advance n).program = x.program := rfl
@[simp] theorem Proc.enqueue_gpr (x : Proc) (e : QEntry) : (x.enqueue e).gpr = x.gpr := rfl
@[simp] theorem Proc.enqueue_pc (x : Proc) (e : QEntry) : (x.enqueue e).pc = x.pc := rfl
@[simp] theorem Proc.enqueue_eflags (x : Proc) (e : QEntry) : (x.enqueue e).eflags = x.eflags := rfl
@[simp] theorem Proc.enqueue_segs (x : Proc) (e : QEntry) : (x.enqueue e).segs = x.segs := rfl
@[simp] theorem Proc.enqueue_fpu (x : Proc) (e : QEntry) : (x.enqueue e).fpu = x.fpu := rfl
@[simp] theorem Proc.enqueue_mmx (x : Proc) (e : QEntry) : (x.enqueue e).mmx = x.mmx := rfl
@[simp] theorem Proc.enqueue_xmm (x : Proc) (e : QEntry) : (x.enqueue e).xmm = x.xmm := rfl
@[simp] theorem Proc.enqueue_mxcsr (x : Proc) (e : QEntry) : (x.enqueue e).mxcsr = x.mxcsr := rfl
@[simp] theorem Proc.enqueue_cr0 (x : Proc) (e : QEntry) : (x.enqueue e).cr0 = x.cr0 := rfl
@[simp] theorem Proc.enqueue_pgInForce (x : Proc) (e : QEntry) : (x.enqueue e).pgInForce = x.pgInForce := rfl
@[simp] theorem Proc.enqueue_cr3 (x : Proc) (e : QEntry) : (x.enqueue e).cr3 = x.cr3 := rfl
@[simp] theorem Proc.enqueue_cr4 (x : Proc) (e : QEntry) : (x.enqueue e).cr4 = x.cr4 := rfl
@[simp] theorem Proc.enqueue_cr8 (x : Proc) (e : QEntry) : (x.enqueue e).cr8 = x.cr8 := rfl
@[simp] theorem Proc.enqueue_gdtr (x : Proc) (e : QEntry) : (x.enqueue e).gdtr = x.gdtr := rfl
@[simp] theorem Proc.enqueue_ldtr (x : Proc) (e : QEntry) : (x.enqueue e).ldtr = x.ldtr := rfl
@[simp] theorem Proc.enqueue_idtr (x : Proc) (e : QEntry) : (x.enqueue e).idtr = x.idtr := rfl
@[simp] theorem Proc.enqueue_tr (x : Proc) (e : QEntry) : (x.enqueue e).tr = x.tr := rfl
@[simp] theorem Proc.enqueue_dr (x : Proc) (e : QEntry) : (x.enqueue e).dr = x.dr := rfl
@[simp] theorem Proc.enqueue_lbr (x : Proc) (e : QEntry) : (x.enqueue e).lbr = x.lbr := rfl
@[simp] theorem Proc.enqueue_mode (x : Proc) (e : QEntry) : (x.enqueue e).mode = x.mode := rfl
@[simp] theorem Proc.enqueue_cpl (x : Proc) (e : QEntry) : (x.enqueue e).cpl = x.cpl := rfl
@[simp] theorem Proc.enqueue_bspFlag (x : Proc) (e : QEntry) : (x.enqueue e).bspFlag = x.bspFlag := rfl
@[simp] theorem Proc.enqueue_activity (x : Proc) (e : QEntry) : (x.enqueue e).activity = x.activity := rfl
@[simp] theorem Proc.enqueue_monitor (x : Proc) (e : QEntry) : (x.enqueue e).monitor = x.monitor := rfl
@[simp] theorem Proc.enqueue_queue (x : Proc) (e : QEntry) :
    (x.enqueue e).queue = x.queue ++ [e] := rfl
@[simp] theorem Proc.enqueue_apic (x : Proc) (e : QEntry) : (x.enqueue e).apic = x.apic := rfl
@[simp] theorem Proc.enqueue_x2apic (x : Proc) (e : QEntry) : (x.enqueue e).x2apic = x.x2apic := rfl
@[simp] theorem Proc.enqueue_lint0Masked (x : Proc) (e : QEntry) : (x.enqueue e).lint0Masked = x.lint0Masked := rfl
@[simp] theorem Proc.enqueue_lint1Masked (x : Proc) (e : QEntry) : (x.enqueue e).lint1Masked = x.lint1Masked := rfl
@[simp] theorem Proc.enqueue_smbase (x : Proc) (e : QEntry) : (x.enqueue e).smbase = x.smbase := rfl
@[simp] theorem Proc.enqueue_stale (x : Proc) (e : QEntry) : (x.enqueue e).stale = x.stale := rfl
@[simp] theorem Proc.enqueue_split (x : Proc) (e : QEntry) : (x.enqueue e).split = x.split := rfl
@[simp] theorem Proc.enqueue_ioStore (x : Proc) (e : QEntry) : (x.enqueue e).ioStore = x.ioStore := rfl
@[simp] theorem Proc.enqueue_handlers (x : Proc) (e : QEntry) : (x.enqueue e).handlers = x.handlers := rfl
@[simp] theorem Proc.enqueue_ended (x : Proc) (e : QEntry) : (x.enqueue e).ended = x.ended := rfl
@[simp] theorem Proc.enqueue_refusal (x : Proc) (e : QEntry) : (x.enqueue e).refusal = x.refusal := rfl
@[simp] theorem Proc.enqueue_serializing (x : Proc) (e : QEntry) : (x.enqueue e).serializing = x.serializing := rfl
@[simp] theorem Proc.enqueue_boot (x : Proc) (e : QEntry) : (x.enqueue e).boot = x.boot := rfl
@[simp] theorem Proc.enqueue_program (x : Proc) (e : QEntry) : (x.enqueue e).program = x.program := rfl
@[simp] theorem Proc.setReg_gpr (x : Proc) (r : Gpr) (v : W64) :
    (x.setReg r v).gpr = x.gpr.set (Gpr.idx r) v := rfl
@[simp] theorem Proc.setReg_pc (x : Proc) (r : Gpr) (v : W64) : (x.setReg r v).pc = x.pc := rfl
@[simp] theorem Proc.setReg_eflags (x : Proc) (r : Gpr) (v : W64) : (x.setReg r v).eflags = x.eflags := rfl
@[simp] theorem Proc.setReg_segs (x : Proc) (r : Gpr) (v : W64) : (x.setReg r v).segs = x.segs := rfl
@[simp] theorem Proc.setReg_fpu (x : Proc) (r : Gpr) (v : W64) : (x.setReg r v).fpu = x.fpu := rfl
@[simp] theorem Proc.setReg_mmx (x : Proc) (r : Gpr) (v : W64) : (x.setReg r v).mmx = x.mmx := rfl
@[simp] theorem Proc.setReg_xmm (x : Proc) (r : Gpr) (v : W64) : (x.setReg r v).xmm = x.xmm := rfl
@[simp] theorem Proc.setReg_mxcsr (x : Proc) (r : Gpr) (v : W64) : (x.setReg r v).mxcsr = x.mxcsr := rfl
@[simp] theorem Proc.setReg_cr0 (x : Proc) (r : Gpr) (v : W64) : (x.setReg r v).cr0 = x.cr0 := rfl
@[simp] theorem Proc.setReg_pgInForce (x : Proc) (r : Gpr) (v : W64) : (x.setReg r v).pgInForce = x.pgInForce := rfl
@[simp] theorem Proc.setReg_cr3 (x : Proc) (r : Gpr) (v : W64) : (x.setReg r v).cr3 = x.cr3 := rfl
@[simp] theorem Proc.setReg_cr4 (x : Proc) (r : Gpr) (v : W64) : (x.setReg r v).cr4 = x.cr4 := rfl
@[simp] theorem Proc.setReg_cr8 (x : Proc) (r : Gpr) (v : W64) : (x.setReg r v).cr8 = x.cr8 := rfl
@[simp] theorem Proc.setReg_gdtr (x : Proc) (r : Gpr) (v : W64) : (x.setReg r v).gdtr = x.gdtr := rfl
@[simp] theorem Proc.setReg_ldtr (x : Proc) (r : Gpr) (v : W64) : (x.setReg r v).ldtr = x.ldtr := rfl
@[simp] theorem Proc.setReg_idtr (x : Proc) (r : Gpr) (v : W64) : (x.setReg r v).idtr = x.idtr := rfl
@[simp] theorem Proc.setReg_tr (x : Proc) (r : Gpr) (v : W64) : (x.setReg r v).tr = x.tr := rfl
@[simp] theorem Proc.setReg_dr (x : Proc) (r : Gpr) (v : W64) : (x.setReg r v).dr = x.dr := rfl
@[simp] theorem Proc.setReg_lbr (x : Proc) (r : Gpr) (v : W64) : (x.setReg r v).lbr = x.lbr := rfl
@[simp] theorem Proc.setReg_mode (x : Proc) (r : Gpr) (v : W64) : (x.setReg r v).mode = x.mode := rfl
@[simp] theorem Proc.setReg_cpl (x : Proc) (r : Gpr) (v : W64) : (x.setReg r v).cpl = x.cpl := rfl
@[simp] theorem Proc.setReg_bspFlag (x : Proc) (r : Gpr) (v : W64) : (x.setReg r v).bspFlag = x.bspFlag := rfl
@[simp] theorem Proc.setReg_activity (x : Proc) (r : Gpr) (v : W64) : (x.setReg r v).activity = x.activity := rfl
@[simp] theorem Proc.setReg_monitor (x : Proc) (r : Gpr) (v : W64) : (x.setReg r v).monitor = x.monitor := rfl
@[simp] theorem Proc.setReg_queue (x : Proc) (r : Gpr) (v : W64) : (x.setReg r v).queue = x.queue := rfl
@[simp] theorem Proc.setReg_apic (x : Proc) (r : Gpr) (v : W64) : (x.setReg r v).apic = x.apic := rfl
@[simp] theorem Proc.setReg_x2apic (x : Proc) (r : Gpr) (v : W64) : (x.setReg r v).x2apic = x.x2apic := rfl
@[simp] theorem Proc.setReg_lint0Masked (x : Proc) (r : Gpr) (v : W64) : (x.setReg r v).lint0Masked = x.lint0Masked := rfl
@[simp] theorem Proc.setReg_lint1Masked (x : Proc) (r : Gpr) (v : W64) : (x.setReg r v).lint1Masked = x.lint1Masked := rfl
@[simp] theorem Proc.setReg_smbase (x : Proc) (r : Gpr) (v : W64) : (x.setReg r v).smbase = x.smbase := rfl
@[simp] theorem Proc.setReg_stale (x : Proc) (r : Gpr) (v : W64) : (x.setReg r v).stale = x.stale := rfl
@[simp] theorem Proc.setReg_split (x : Proc) (r : Gpr) (v : W64) : (x.setReg r v).split = x.split := rfl
@[simp] theorem Proc.setReg_ioStore (x : Proc) (r : Gpr) (v : W64) : (x.setReg r v).ioStore = x.ioStore := rfl
@[simp] theorem Proc.setReg_handlers (x : Proc) (r : Gpr) (v : W64) : (x.setReg r v).handlers = x.handlers := rfl
@[simp] theorem Proc.setReg_ended (x : Proc) (r : Gpr) (v : W64) : (x.setReg r v).ended = x.ended := rfl
@[simp] theorem Proc.setReg_refusal (x : Proc) (r : Gpr) (v : W64) : (x.setReg r v).refusal = x.refusal := rfl
@[simp] theorem Proc.setReg_serializing (x : Proc) (r : Gpr) (v : W64) : (x.setReg r v).serializing = x.serializing := rfl
@[simp] theorem Proc.setReg_boot (x : Proc) (r : Gpr) (v : W64) : (x.setReg r v).boot = x.boot := rfl
@[simp] theorem Proc.setReg_program (x : Proc) (r : Gpr) (v : W64) : (x.setReg r v).program = x.program := rfl
@[simp] theorem Proc.settle_gpr (x : Proc) : (x.settle).gpr = x.gpr := rfl
@[simp] theorem Proc.settle_pc (x : Proc) : (x.settle).pc = x.pc := rfl
@[simp] theorem Proc.settle_eflags (x : Proc) : (x.settle).eflags = x.eflags := rfl
@[simp] theorem Proc.settle_segs (x : Proc) : (x.settle).segs = x.segs := rfl
@[simp] theorem Proc.settle_fpu (x : Proc) : (x.settle).fpu = x.fpu := rfl
@[simp] theorem Proc.settle_mmx (x : Proc) : (x.settle).mmx = x.mmx := rfl
@[simp] theorem Proc.settle_xmm (x : Proc) : (x.settle).xmm = x.xmm := rfl
@[simp] theorem Proc.settle_mxcsr (x : Proc) : (x.settle).mxcsr = x.mxcsr := rfl
@[simp] theorem Proc.settle_cr0 (x : Proc) : (x.settle).cr0 = x.cr0 := rfl
@[simp] theorem Proc.settle_pgInForce (x : Proc) : (x.settle).pgInForce = x.pgInForce := rfl
@[simp] theorem Proc.settle_cr3 (x : Proc) : (x.settle).cr3 = x.cr3 := rfl
@[simp] theorem Proc.settle_cr4 (x : Proc) : (x.settle).cr4 = x.cr4 := rfl
@[simp] theorem Proc.settle_cr8 (x : Proc) : (x.settle).cr8 = x.cr8 := rfl
@[simp] theorem Proc.settle_gdtr (x : Proc) : (x.settle).gdtr = x.gdtr := rfl
@[simp] theorem Proc.settle_ldtr (x : Proc) : (x.settle).ldtr = x.ldtr := rfl
@[simp] theorem Proc.settle_idtr (x : Proc) : (x.settle).idtr = x.idtr := rfl
@[simp] theorem Proc.settle_tr (x : Proc) : (x.settle).tr = x.tr := rfl
@[simp] theorem Proc.settle_dr (x : Proc) : (x.settle).dr = x.dr := rfl
@[simp] theorem Proc.settle_lbr (x : Proc) : (x.settle).lbr = x.lbr := rfl
@[simp] theorem Proc.settle_mode (x : Proc) : (x.settle).mode = x.mode := rfl
@[simp] theorem Proc.settle_cpl (x : Proc) : (x.settle).cpl = x.cpl := rfl
@[simp] theorem Proc.settle_bspFlag (x : Proc) : (x.settle).bspFlag = x.bspFlag := rfl
@[simp] theorem Proc.settle_activity (x : Proc) : (x.settle).activity = x.activity := rfl
@[simp] theorem Proc.settle_monitor (x : Proc) : (x.settle).monitor = x.monitor := rfl
@[simp] theorem Proc.settle_queue (x : Proc) : (x.settle).queue = x.queue := rfl
@[simp] theorem Proc.settle_apic (x : Proc) : (x.settle).apic = x.apic := rfl
@[simp] theorem Proc.settle_x2apic (x : Proc) : (x.settle).x2apic = x.x2apic := rfl
@[simp] theorem Proc.settle_lint0Masked (x : Proc) : (x.settle).lint0Masked = x.lint0Masked := rfl
@[simp] theorem Proc.settle_lint1Masked (x : Proc) : (x.settle).lint1Masked = x.lint1Masked := rfl
@[simp] theorem Proc.settle_smbase (x : Proc) : (x.settle).smbase = x.smbase := rfl
@[simp] theorem Proc.settle_stale (x : Proc) :
    (x.settle).stale = [] := rfl
@[simp] theorem Proc.settle_split (x : Proc) : (x.settle).split = x.split := rfl
@[simp] theorem Proc.settle_ioStore (x : Proc) : (x.settle).ioStore = x.ioStore := rfl
@[simp] theorem Proc.settle_handlers (x : Proc) : (x.settle).handlers = x.handlers := rfl
@[simp] theorem Proc.settle_ended (x : Proc) : (x.settle).ended = x.ended := rfl
@[simp] theorem Proc.settle_refusal (x : Proc) : (x.settle).refusal = x.refusal := rfl
@[simp] theorem Proc.settle_serializing (x : Proc) : (x.settle).serializing = x.serializing := rfl
@[simp] theorem Proc.settle_boot (x : Proc) : (x.settle).boot = x.boot := rfl
@[simp] theorem Proc.settle_program (x : Proc) : (x.settle).program = x.program := rfl

/-- Reading a register after writing one. -/
theorem Proc.reg_setReg (x : Proc) (r r' : Gpr) (v : W64) :
    (x.setReg r v).reg r' = if r' = r then v else x.reg r' := by
  have hinj : (Gpr.idx r).val = (Gpr.idx r').val ↔ r' = r := by cases r <;> cases r' <;> decide
  simp [Proc.reg, Proc.setReg, Vector.getElem_set, hinj]

/-- The processor just replaced. -/
theorem State.setProc_self {s : State} {p : Nat} {x : Proc} (h : s.procs[p]? = some x) (y : Proc) :
    (s.setProc p y).procs[p]? = some y := by
  have := (List.getElem?_eq_some_iff.mp h).1
  simp [this]

/-- Any other processor. -/
theorem State.setProc_other (s : State) {p q : Nat} (h : q ≠ p) (y : Proc) :
    (s.setProc p y).procs[q]? = s.procs[q]? := by
  simp [Ne.symm h]

end Sys2Proof.Machine
end

