-- ==== Sys2Proof/Laws/Coherence.lean ====
section
/-! SUPPORT. What each cache primitive does to Coh, Mem and St, and that each keeps the invariant of R140. -/

namespace Sys2Proof.Machine

open Sys2Proof

/-! ## The memory part of a state -/

/-- Two states with the same parameters, Coh, Mem and St. -/
structure State.SameMemory (s t : State) : Prop where
  cfg : t.cfg = s.cfg
  coh : t.coh = s.coh
  mem : t.mem = s.mem
  lines : t.lines = s.lines

theorem State.SameMemory.refl (s : State) : s.SameMemory s := ⟨rfl, rfl, rfl, rfl⟩

theorem State.SameMemory.trans {s t u : State} (h : s.SameMemory t) (g : t.SameMemory u) : s.SameMemory u :=
  ⟨g.cfg.trans h.cfg, g.coh.trans h.coh, g.mem.trans h.mem, g.lines.trans h.lines⟩

theorem State.SameMemory.inv {s t : State} (h : s.SameMemory t) (hi : s.Inv) : t.Inv := by
  obtain ⟨⟨hc, hm, hl⟩, hco⟩ := hi
  refine ⟨⟨h.coh ▸ hc, h.mem ▸ hm, h.lines ▸ hl⟩, fun a ha => ?_⟩
  rw [State.lineState, h.lines, h.cfg] at ha
  rw [h.mem, h.coh]
  exact hco a ha

theorem setProc_sameMemory (s : State) (p : Nat) (x : Proc) : s.SameMemory (s.setProc p x) := ⟨rfl, rfl, rfl, rfl⟩

theorem updProc_sameMemory (s : State) (p : Nat) (f : Proc → Proc) : s.SameMemory (s.updProc p f) :=
  ⟨rfl, rfl, rfl, rfl⟩

theorem raise_sameMemory (s : State) (p : Nat) (x : Proc) (k : ExcKind) (c : Option W32) :
    s.SameMemory (raise s p x k c) := ⟨rfl, rfl, rfl, rfl⟩

/-! ## WriteBackLine, FlushLine and the step of INVD -/

theorem writeBackLine_cfg (s : State) (l : Nat) : (writeBackLine s l).cfg = s.cfg := by
  unfold writeBackLine; split <;> rfl

theorem writeBackLine_coh (s : State) (l : Nat) : (writeBackLine s l).coh = s.coh := by
  unfold writeBackLine; split <;> rfl

theorem writeBackLine_procs (s : State) (l : Nat) : (writeBackLine s l).procs = s.procs := by
  unfold writeBackLine; split <;> rfl

/-- After a write-back no byte of a line that was Modified differs from Coh; no other byte changes. -/
theorem writeBackLine_mem {s : State} (h : s.Canonical) (l a : Nat) :
    readByte (writeBackLine s l).mem a =
      if s.lineState l = .modified ∧ l ≤ a ∧ a < l + s.cfg.line then readByte s.coh a else readByte s.mem a := by
  unfold writeBackLine
  split
  · rename_i hl
    simp only [hl, true_and]
    exact readByte_copyBytes _ h.mem _ _ _
  · rename_i hl
    simp [hl]

theorem writeBackLine_lineState {s : State} (h : s.Canonical) (l k : Nat) :
    (writeBackLine s l).lineState k =
      if k = l ∧ s.lineState l = .modified then .clean else s.lineState k := by
  unfold writeBackLine
  split
  · rename_i hl
    simp only [hl, and_true]
    exact mget_mset h.lines l k .clean
  · rename_i hl
    simp [hl]

theorem writeBackLine_canonical {s : State} (h : s.Canonical) (l : Nat) : (writeBackLine s l).Canonical := by
  unfold writeBackLine
  split
  · exact ⟨h.coh, wf_copyBytes _ h.mem _ _, wf_setLine h.lines l .clean⟩
  · exact h

theorem writeBackLine_inv {s : State} (h : s.Inv) (l : Nat) : (writeBackLine s l).Inv := by
  refine ⟨writeBackLine_canonical h.canonical l, fun a ha => ?_⟩
  rw [writeBackLine_mem h.canonical, writeBackLine_coh]
  rw [writeBackLine_lineState h.canonical, writeBackLine_cfg] at ha
  split
  · rfl
  · rename_i hn
    refine h.coherent a fun hm => ?_
    by_cases hl : lineOf s.cfg a = l
    · exact hn ⟨hl ▸ hm, hl ▸ lineOf_le _ a, hl ▸ lt_lineOf_add _ a⟩
    · simp [hl, hm] at ha

/-- A line made Invalid, Clean or Modified, where Modified is asked for or the line was not Modified. -/
theorem setLine_inv {s : State} (h : s.Inv) (l : Nat) (v : LineState)
    (hv : v = .modified ∨ s.lineState l ≠ .modified) : (s.setLine l v).Inv := by
  refine ⟨⟨h.canonical.coh, h.canonical.mem, wf_setLine h.canonical.lines l v⟩, fun a ha => ?_⟩
  rw [lineState_setLine h.canonical.lines] at ha
  refine h.coherent a fun hm => ?_
  by_cases hl : lineOf s.cfg a = l
  · rcases hv with hv | hv
    · simp [hl, hv] at ha
    · exact hv (hl ▸ hm)
  · simp [hl, hm] at ha

theorem writeBackLine_not_modified {s : State} (h : s.Canonical) (l : Nat) :
    (writeBackLine s l).lineState l ≠ .modified := by
  rw [writeBackLine_lineState h]
  split <;> simp_all

theorem flushLine_inv {s : State} (h : s.Inv) (l : Nat) : (flushLine s l).Inv :=
  setLine_inv (writeBackLine_inv h l) l _ (.inr (writeBackLine_not_modified h.canonical l))

theorem flushLine_cfg (s : State) (l : Nat) : (flushLine s l).cfg = s.cfg := writeBackLine_cfg s l

theorem flushLine_coh (s : State) (l : Nat) : (flushLine s l).coh = s.coh := writeBackLine_coh s l

theorem flushLine_procs (s : State) (l : Nat) : (flushLine s l).procs = s.procs := writeBackLine_procs s l

theorem flushLine_canonical {s : State} (h : s.Canonical) (l : Nat) : (flushLine s l).Canonical :=
  have g := writeBackLine_canonical h l
  ⟨g.coh, g.mem, wf_setLine g.lines l _⟩

theorem flushLine_mem {s : State} (h : s.Canonical) (l a : Nat) :
    readByte (flushLine s l).mem a =
      if s.lineState l = .modified ∧ l ≤ a ∧ a < l + s.cfg.line then readByte s.coh a else readByte s.mem a :=
  writeBackLine_mem h l a

theorem flushLine_lineState {s : State} (h : s.Canonical) (l k : Nat) :
    (flushLine s l).lineState k = if k = l then .invalid else s.lineState k := by
  rw [flushLine, lineState_setLine (writeBackLine_canonical h l).lines, writeBackLine_lineState h]
  by_cases hk : k = l <;> simp [hk]

theorem dropLine_cfg (s : State) (l : Nat) : (dropLine s l).cfg = s.cfg := by unfold dropLine; split <;> rfl

theorem dropLine_mem (s : State) (l : Nat) : (dropLine s l).mem = s.mem := by unfold dropLine; split <;> rfl

theorem dropLine_procs (s : State) (l : Nat) : (dropLine s l).procs = s.procs := by unfold dropLine; split <;> rfl

/-- INVD's step: the bytes of a line that was Modified read as Mem holds them. -/
theorem dropLine_coh {s : State} (h : s.Canonical) (l a : Nat) :
    readByte (dropLine s l).coh a =
      if s.lineState l = .modified ∧ l ≤ a ∧ a < l + s.cfg.line then readByte s.mem a else readByte s.coh a := by
  unfold dropLine
  split
  · rename_i hl
    simp only [hl, true_and]
    exact readByte_copyBytes _ h.coh _ _ _
  · rename_i hl
    simp [hl]

theorem dropLine_lineState {s : State} (h : s.Canonical) (l k : Nat) :
    (dropLine s l).lineState k = if k = l then .invalid else s.lineState k := by
  unfold dropLine
  split
  · exact mget_mset h.lines l k .invalid
  · exact lineState_setLine h.lines l k .invalid

theorem dropLine_canonical {s : State} (h : s.Canonical) (l : Nat) : (dropLine s l).Canonical := by
  unfold dropLine
  split
  · exact ⟨wf_copyBytes _ h.coh _ _, h.mem, wf_setLine h.lines l .invalid⟩
  · exact ⟨h.coh, h.mem, wf_setLine h.lines l .invalid⟩

theorem dropLine_inv {s : State} (h : s.Inv) (l : Nat) : (dropLine s l).Inv := by
  refine ⟨dropLine_canonical h.canonical l, fun a ha => ?_⟩
  rw [dropLine_coh h.canonical, dropLine_mem]
  rw [dropLine_lineState h.canonical, dropLine_cfg] at ha
  split
  · rfl
  · rename_i hn
    refine h.coherent a fun hm => ?_
    by_cases hl : lineOf s.cfg a = l
    · exact hn ⟨hl ▸ hm, hl ▸ lineOf_le _ a, hl ▸ lt_lineOf_add _ a⟩
    · simp [hl, hm] at ha

/-! ## Performing -/

theorem performByte_cfg (s : State) (p a : Nat) (b : Byte) : (performByte s p a b).cfg = s.cfg := by
  unfold performByte; split <;> rfl

/-- One byte reaches Coh and nothing else of Coh changes. -/
theorem performByte_coh (s : State) (p a : Nat) (b : Byte) :
    (performByte s p a b).coh = writeByte s.coh a b := by
  unfold performByte; split <;> rfl

theorem performByte_canonical {s : State} (h : s.Canonical) (p a : Nat) (b : Byte) :
    (performByte s p a b).Canonical := by
  unfold performByte
  split
  · exact ⟨wf_writeByte h.coh _ _, h.mem, wf_setLine h.lines _ _⟩
  · exact ⟨wf_writeByte h.coh _ _, wf_writeByte h.mem _ _, h.lines⟩

theorem performByte_inv {s : State} (h : s.Inv) (p a : Nat) (b : Byte) : (performByte s p a b).Inv := by
  refine ⟨performByte_canonical h.canonical p a b, fun k hk => ?_⟩
  rw [performByte_coh, readByte_writeByte h.canonical.coh]
  revert hk
  unfold performByte
  split
  · intro hk
    have hk' : mget .invalid (mset .invalid s.lines (lineOf s.cfg a) .modified) (lineOf s.cfg k) ≠
        .modified := hk
    rw [mget_mset h.canonical.lines] at hk'
    have hka : k ≠ a := by rintro rfl; simp at hk'
    rw [if_neg hka]
    refine h.coherent k fun hm => hk' ?_
    split
    · rfl
    · exact hm
  · intro hk
    show readByte (writeByte s.mem a b) k = _
    rw [readByte_writeByte h.canonical.mem]
    split
    · rfl
    · exact h.coherent k hk

theorem performBytes_inv {s : State} (h : s.Inv) (p : Nat) (cells : List Host.Cell) :
    (performBytes s p cells).Inv := by
  induction cells generalizing s with
  | nil => exact h
  | cons c t ih => exact ih (performByte_inv h p c.1 c.2)

theorem performBytes_cfg (s : State) (p : Nat) (cells : List Host.Cell) :
    (performBytes s p cells).cfg = s.cfg := by
  induction cells generalizing s with
  | nil => rfl
  | cons c t ih => exact (ih (performByte s p c.1 c.2)).trans (performByte_cfg s p c.1 c.2)

theorem triggerMonitors_sameMemory (s : State) (p : Nat) (addrs : List Nat) :
    s.SameMemory (triggerMonitors s p addrs) := ⟨rfl, rfl, rfl, rfl⟩

theorem flushMonitors_sameMemory (s : State) (l : Nat) : s.SameMemory (flushMonitors s l) := ⟨rfl, rfl, rfl, rfl⟩

theorem trigger_triggered (x : Proc) : Triggered x x.trigger := by
  refine ⟨rfl, fun h => by simp [Proc.trigger, h], fun h => by simp [Proc.trigger, h], fun h g => ?_⟩
  unfold Proc.trigger
  split <;> simp_all

/-- What a flush or write-back can do to a processor. -/
theorem flushMonitors_proc {s : State} {q : Nat} {x : Proc} (l : Nat) (h : s.procs[q]? = some x) :
    ∃ y, (flushMonitors s l).procs[q]? = some y ∧ FlushSeen l s.cfg.line x y := by
  simp only [flushMonitors, List.getElem?_mapIdx, h, Option.map_some]
  refine ⟨_, rfl, ?_⟩
  split
  · exact .inl rfl
  · rename_i lo size hm
    split
    · rename_i hc
      simp only [Bool.and_eq_true, decide_eq_true_eq] at hc
      exact .inr ⟨lo, size, hm, hc.1.1, hc.1.2, trigger_triggered x⟩
    · exact .inl rfl

/-- Performing a write keeps the invariant (R140, R145). -/
theorem performWrite_inv {s : State} (h : s.Inv) (p : Nat) (cells : List Host.Cell) :
    (performWrite s p cells).Inv := (triggerMonitors_sameMemory _ p _).inv (performBytes_inv h p cells)

/-- Performing CLFLUSH or CLFLUSHOPT keeps the invariant (R140, R142). -/
theorem performFlush_inv {s : State} (h : s.Inv) (l : Nat) : (performFlush s l).Inv :=
  (flushMonitors_sameMemory _ l).inv (flushLine_inv h l)

/-- Performing CLWB keeps the invariant (R140, R142). -/
theorem performClwb_inv {s : State} (h : s.Inv) (l : Nat) : (performClwb s l).Inv := by
  refine (flushMonitors_sameMemory _ l).inv ?_
  split
  · exact setLine_inv (writeBackLine_inv h l) l _ (.inr (writeBackLine_not_modified h.canonical l))
  · exact writeBackLine_inv h l

/-! ## WBINVD and INVD: a flush or drop of every line, with the monitors -/

theorem flushLine_sameMemory {s t : State} (h : s.SameMemory t) (l : Nat) :
    (flushLine s l).SameMemory (flushLine t l) := by
  obtain ⟨h1, h2, h3, h4⟩ := h
  by_cases hm : mget .invalid s.lines l = .modified <;> constructor <;>
    simp [flushLine, State.setLine, writeBackLine, State.lineState, h1, h2, h3, h4, hm]

theorem dropLine_sameMemory {s t : State} (h : s.SameMemory t) (l : Nat) :
    (dropLine s l).SameMemory (dropLine t l) := by
  obtain ⟨h1, h2, h3, h4⟩ := h
  by_cases hm : mget .invalid s.lines l = .modified <;> constructor <;>
    simp [dropLine, State.setLine, State.lineState, h1, h2, h3, h4, hm]

/-- Performed flushes do to the memory what the flushes do. -/
theorem foldl_performFlush_sameMemory (ls : List Nat) {s t : State} (h : s.SameMemory t) :
    (ls.foldl flushLine s).SameMemory (ls.foldl performFlush t) := by
  induction ls generalizing s t with
  | nil => exact h
  | cons l ls ih => exact ih ((flushLine_sameMemory h l).trans (flushMonitors_sameMemory _ l))

/-- The same of INVD's steps. -/
theorem foldl_dropLine_sameMemory (ls : List Nat) {s t : State} (h : s.SameMemory t) :
    (ls.foldl dropLine s).SameMemory (ls.foldl (fun u l => flushMonitors (dropLine u l) l) t) := by
  induction ls generalizing s t with
  | nil => exact h
  | cons l ls ih => exact ih ((dropLine_sameMemory h l).trans (flushMonitors_sameMemory _ l))

/-! ## Reset -/

/-- Memory.wf holds at reset, of Coh and of Mem. -/
theorem reset_memory_wf (c : Config) :
    Memory.wf (State.resetWith c).coh = true ∧ Memory.wf (State.resetWith c).mem = true := ⟨rfl, rfl⟩

end Sys2Proof.Machine
end

