-- ==== Sys2Proof/Laws/Ops.lean ====
section
/-! SUPPORT. For each shared operation, once, everything it can answer; the proofs about instructions cite these
and do not unfold the operation. -/

namespace Sys2Proof.Machine

open Sys2Proof

variable {s u : State} {p : Nat} {x : Proc}

/-! ## The six instructions -/

/-- What the three cache-line instructions can do: an exception, or an entry in Q_p. -/
theorem cacheLineStep_cases (s : State) (p : Nat) (x : Proc) (px : Prefixes) (m : MemOp) (len : Nat)
    (ud eo : Bool) (entry : Nat → QEntry) :
    (∃ t k c, cacheLineStep s p x px m len ud eo entry = raise { s with tables := t } p x k c) ∨
    (∃ la pa t, ud = false ∧ operandLinear s.cfg x px m len eo = .ok la ∧
      translate s p x la.toNat .read = .ok pa t ∧
      cacheLineStep s p x px m len ud eo entry =
        State.setProc { s with tables := t } p ((x.enqueue (entry (lineOf s.cfg pa))).advance len)) := by
  unfold cacheLineStep
  split
  · exact .inl ⟨s.tables, _, _, rfl⟩
  · rename_i hud
    cases hl : operandLinear s.cfg x px m len eo with
    | exc k c => exact .inl ⟨s.tables, k, c, rfl⟩
    | ok la =>
      cases ht : translate s p x la.toNat .read with
      | pageFault t => exact .inl ⟨t, .pf, some (Config.pageFaultCode s.tick), by simp only [ht]⟩
      | ok pa t => exact .inr ⟨la, pa, t, by simpa using hud, rfl, ht, by simp only [ht]⟩

/-- What the three fences can do. -/
theorem fenceStep_next {px : Prefixes} {feature : Bool} {effect : Proc → State}
    (h : fenceStep s px feature effect = .next u) :
    ∃ x, s.procs[s.cur]? = some x ∧ (fencePrefixPresent px = false ∨ s.cfg.fenceIgnoresPrefixes = true) ∧
      (((px.has .lock = true ∨ feature = false) ∧ u = raise s s.cur x .ud none) ∨
        (px.has .lock = false ∧ feature = true ∧ u = effect x)) := by
  unfold fenceStep at h
  split at h
  · cases h
  · rename_i x hx
    split at h
    · cases h
    · rename_i hp
      refine ⟨x, hx, ?_, ?_⟩
      · cases hq : fencePrefixPresent px <;> simp_all
      · split at h
        · rename_i hl
          cases h
          exact .inl ⟨by cases feature <;> simp_all, rfl⟩
        · rename_i hl
          cases h
          exact .inr ⟨by simp_all, by simp_all, rfl⟩

/-! ## Data accesses -/

theorem translateRun_length {acc mark : Access} {la : W64} {n : Nat} {pas : List Nat} {t : List AddrSpace}
    (h : translateRun s p x acc mark la n = .ok pas t) : pas.length = n := by
  induction n generalizing s la pas t with
  | zero => simp [translateRun] at h; simp [← h.1]
  | succ n ih =>
    unfold translateRun at h
    split at h
    · cases h
    · split at h
      · cases h
      · split at h
        · rename_i hq
          cases h
          simp [ih hq]
        · cases h

theorem translateBytes_length {acc : Access} {la : W64} {n : Nat} {pas : List Nat} {t : List AddrSpace}
    (h : translateBytes s p x acc la n = .ok pas t) : pas.length = n := by
  unfold translateBytes at h
  split at h
  · cases h
  · exact translateRun_length h

/-- An access takes an exception, or goes on with its physical addresses. -/
theorem withAddresses_next {la : W64} {n : Nat} {acc : Access} {k : State → List Nat → Out}
    (h : withAddresses s p x la n acc k = .next u) :
    (∃ e c t, u = raise { s with tables := t } p x e c) ∨
    (∃ pas t, pas.length = n ∧ translateBytes s p x acc la n = .ok pas t ∧ accessStop s.cfg pas = none ∧
      k { s with tables := t } pas = .next u) := by
  unfold withAddresses at h
  split at h
  · cases h; exact .inl ⟨_, _, _, rfl⟩
  · rename_i pas t ht
    split at h
    · cases h
    · rename_i hs
      exact .inr ⟨pas, t, translateBytes_length ht, ht, hs, h⟩

/-- A locked operation waits, takes an exception, or reads, computes and writes. -/
theorem lockedStep_next {a : AddrExpr} {n : Nat} {new : List Byte → List Byte} {regs : List Byte → Proc → Proc}
    {len : Nat} (h : lockedStep a n new regs len p x s = .next u) :
    u = s ∨ (∃ e c t, u = raise { s with tables := t } p x e c) ∨
    (∃ pas t, pas.length = n ∧ x.queue = [] ∧ busHeld s p = false ∧ accessStop s.cfg pas = none ∧
      u = State.updProc
        { writeData { s with tables := t } p (cellsAt pas (new (dataBytes s x pas))) with busLock := none } p
        fun y => { (regs (dataBytes s x pas) y).advance len with stale := ownStale s x pas ++ y.stale }) := by
  unfold lockedStep at h
  rcases withAddresses_next h with ⟨e, c, t, he⟩ | ⟨pas, t, hn, ht, hs, hk⟩
  · exact .inr (.inl ⟨e, c, t, he⟩)
  · split at hk
    · rename_i hq
      simp only [lockFree, Bool.and_eq_true, List.isEmpty_iff, Bool.not_eq_true'] at hq
      cases hk
      exact .inr (.inr ⟨pas, t, hn, hq.1, hq.2, hs, rfl⟩)
    · cases hk; exact .inl rfl

/-! ## Serialization and privilege -/

theorem privileged_next {go : Out} (h : privileged p x s go = .next u) :
    (x.cpl ≠ 0#2 ∧ u = raise s p x .gp (some 0#32)) ∨ (x.cpl = 0#2 ∧ go = .next u) := by
  unfold privileged at h
  split at h
  · rename_i hc; exact .inr ⟨hc, h⟩
  · rename_i hc; cases h; exact .inl ⟨hc, rfl⟩

/-- A serializing step waits, or runs with Q_p empty and nothing fetched earlier left. -/
theorem serialize_next {go : Proc → State → Out} (h : serialize p x s go = .next u) :
    (x.queue ≠ [] ∧ u = s) ∨ (x.queue = [] ∧ go x.settle (s.setProc p x.settle) = .next u) := by
  unfold serialize at h
  split at h
  · rename_i hq; exact .inr ⟨by simpa using hq, h⟩
  · rename_i hq; cases h; exact .inl ⟨by simpa using hq, rfl⟩

/-- The processor that has serialized its core. -/
def Proc.settledAll (x : Proc) : Proc := { x.settle with serializing := false }

/-- The state in which a core-wide serializing step has its effect. -/
def settledCore (s : State) (p : Nat) (x : Proc) : State :=
  (siblings s.cfg p).foldl (fun t q => t.updProc q Proc.settle) (s.setProc p x.settledAll)

theorem foldl_updProc_same (f : Proc → Proc) (qs : List Nat) (s : State) :
    ∃ l, l.length = s.procs.length ∧ qs.foldl (fun t q => t.updProc q f) s = { s with procs := l } := by
  induction qs generalizing s with
  | nil => exact ⟨s.procs, rfl, rfl⟩
  | cons q t ih =>
    obtain ⟨l, hl, h⟩ := ih (s.updProc q f)
    exact ⟨l, by simpa using hl, by simpa using h⟩

theorem settledCore_same (s : State) (p : Nat) (x : Proc) :
    ∃ l, l.length = s.procs.length ∧ settledCore s p x = { s with procs := l } := by
  obtain ⟨l, hl, h⟩ := foldl_updProc_same Proc.settle (siblings s.cfg p) (s.setProc p x.settledAll)
  exact ⟨l, by simpa using hl, by simpa [settledCore, State.setProc] using h⟩

/-- A core-wide serializing step waits, marked as waiting, or runs with every queue of the core empty. -/
theorem serializeCore_next {go : Proc → State → Out} (h : serializeCore p x s go = .next u) :
    u = s.setProc p { x with serializing := true } ∨
      (x.queue = [] ∧ (∀ q ∈ siblings s.cfg p, queueEmpty s q = true) ∧
        go x.settledAll (settledCore s p x) = .next u) := by
  unfold serializeCore at h
  split at h
  · rename_i hq
    simp only [Bool.and_eq_true, List.all_eq_true, List.isEmpty_iff] at hq
    exact .inr ⟨hq.1, hq.2, h⟩
  · cases h; exact .inl rfl

/-! ## Strings -/

theorem repStep_next {len : Nat} {go : Out} (h : repStep len p x s go = .next u) :
    u = s.setProc p (x.advance len) ∨ go = .next u := by
  unfold repStep at h
  split at h
  · cases h; exact .inl rfl
  · exact .inr h

theorem stringStep_next {len : Nat} {go : Out} (h : stringStep len p x s go = .next u) :
    s.cfg.fastStrings = false ∧ (u = s.setProc p (x.advance len) ∨ go = .next u) := by
  unfold stringStep at h
  split at h
  · cases h
  · rename_i hf
    exact ⟨by simpa using hf, repStep_next h⟩

/-- A string form of I/O waits, is over, or goes on with an element. -/
theorem ioString_next {element : (Proc → Proc) → Out} {rep : Bool} {len : Nat}
    (h : ioString element rep len p x s = .next u) :
    u = s ∨ (x.queue = [] ∧ (u = s.setProc p (x.advance len) ∨ ∃ fin, element fin = .next u)) := by
  unfold ioString at h
  split at h
  · cases h; exact .inl rfl
  · rename_i hq
    refine .inr ⟨by simpa using hq, ?_⟩
    split at h
    · exact (repStep_next h).imp id fun h => ⟨_, h⟩
    · exact .inr ⟨_, h⟩

theorem withElement_next {seg : Seg} {r : Gpr} {n : Nat} {acc : Access} {k : State → List Nat → Out}
    (h : withElement s p x seg r n acc k = .next u) :
    (∃ e c t, u = raise { s with tables := t } p x e c) ∨
    (∃ pas t, pas.length = n ∧ accessStop s.cfg pas = none ∧ k { s with tables := t } pas = .next u) := by
  unfold withElement at h
  split at h
  · cases h; exact .inl ⟨_, _, s.tables, rfl⟩
  · rcases withAddresses_next h with he | ⟨pas, t, hn, _, hs, hk⟩
    · exact .inl he
    · exact .inr ⟨pas, t, hn, hs, hk⟩

/-! ## Messages and MSRs -/

theorem sendTo_sameMemory (s : State) (d : List (Option Nat)) (v : W32) : s.SameMemory (sendTo s d v) :=
  ⟨rfl, rfl, rfl, rfl⟩

theorem apicStore_sameMemory (s : State) (p : Nat) (r : ApicReg) (v : W32) : s.SameMemory (apicStore s p r v) := by
  unfold apicStore; split <;> exact ⟨rfl, rfl, rfl, rfl⟩

theorem apicOtherStore_sameMemory (s : State) (p : Nat) (pas : List Nat) :
    s.SameMemory (apicOtherStore s p pas) := by
  unfold apicOtherStore
  dsimp only
  split
  · split <;> exact ⟨rfl, rfl, rfl, rfl⟩
  · exact ⟨rfl, rfl, rfl, rfl⟩

/-- Bytes written: to a local APIC register, or to memory and perhaps the rest of the local APIC page. -/
theorem writeData_cases (s : State) (p : Nat) (cells : List Host.Cell) :
    (∃ r v, writeData s p cells = apicStore s p r v) ∨
    (∃ inside cs, writeData s p cells = apicOtherStore (performWrite s p cs) p inside) ∨
    writeData s p cells = performWrite s p cells := by
  unfold writeData
  dsimp only
  split
  · exact .inl ⟨_, _, rfl⟩
  · split
    · exact .inr (.inl ⟨_, _, rfl⟩)
    · exact .inr (.inr rfl)

/-- Writing bytes keeps the invariant (R140). -/
theorem writeData_inv (h : s.Inv) (p : Nat) (cells : List Host.Cell) : (writeData s p cells).Inv := by
  rcases writeData_cases s p cells with ⟨r, v, e⟩ | ⟨i, cs, e⟩ | e
  · rw [e]; exact (apicStore_sameMemory s p r v).inv h
  · rw [e]; exact (apicOtherStore_sameMemory _ p i).inv (performWrite_inv h p cs)
  · rw [e]; exact performWrite_inv h p cells

theorem writeX2apic_sameMemory (s : State) (p : Nat) (k : Fin 62) (v : W64) :
    s.SameMemory (writeX2apic s p k v) := by
  unfold writeX2apic
  split
  · exact .refl s
  · dsimp only
    split
    · split <;> exact ⟨rfl, rfl, rfl, rfl⟩
    · exact ⟨rfl, rfl, rfl, rfl⟩

theorem writeMsr_sameMemory (s : State) (p : Nat) (m : Msr) (v : W64) : s.SameMemory (writeMsr s p m v) := by
  unfold writeMsr
  split
  · exact writeX2apic_sameMemory s p _ v
  · exact ⟨rfl, rfl, rfl, rfl⟩
  · exact ⟨rfl, rfl, rfl, rfl⟩
  · exact ⟨rfl, rfl, rfl, rfl⟩

/-- A word read after one is put. -/
theorem wordAt_putWord (l : List W64) (n k : Nat) (v : W64) :
    wordAt (putWord l n v) k = if k = n then v else wordAt l k := by
  induction l generalizing n k with
  | nil =>
    induction n generalizing k with
    | zero => cases k <;> simp [putWord, wordAt]
    | succ n ih => cases k <;> simp_all [putWord, wordAt]
  | cons a t ih => cases n <;> cases k <;> simp_all [putWord, wordAt]

/-- A copy read after a value is put. -/
theorem find_putKey (l : List (MsrKey × W64)) (k k' : MsrKey) (v : W64) :
    ((putKey l k v).find? fun e => e.1 == k').map (·.2) =
      if k' = k then some v else (l.find? fun e => e.1 == k').map (·.2) := by
  induction l with
  | nil =>
    by_cases h : k' = k
    · simp [putKey, h]
    · simp [putKey, h, Ne.symm h]
  | cons e t ih =>
    obtain ⟨a, w⟩ := e
    by_cases h : a = k
    · subst h
      by_cases h' : k' = a
      · subst h'; simp [putKey]
      · simp [putKey, h', Ne.symm h']
    · by_cases h' : a = k'
      · subst h'; simp [putKey, h]
      · simp [putKey, h, h', ih]

/-- A delivery changes one processor, takes one message away, and adds messages behind the others or none; or it
does nothing. -/
theorem deliver_next (h : deliver s p = .next u) :
    u = s ∨ ∃ x procs m more, s.procs[p]? = some x ∧ stopped s p = false ∧ m ∈ s.ipis ∧ m.canGo s.ipis p x = true ∧
      procs.length = s.procs.length ∧ (∀ q, q ≠ p → procs[q]? = s.procs[q]?) ∧
      u = { s with procs := procs, ipis := s.ipis.erase m ++ more } := by
  unfold deliver at h
  split at h
  · cases h
  · rename_i x hx
    split at h
    · cases h; exact .inl rfl
    · rename_i hst
      split at h
      · cases h; exact .inl rfl
      · rename_i m hm
        have hg := List.find?_some hm
        have hin := List.mem_of_find?_eq_some hm
        have hst' : stopped s p = false := by simpa using hst
        have set (y : Proc) : ∀ q, q ≠ p → (s.procs.set p y)[q]? = s.procs[q]? := fun q hq => by
          simp [Ne.symm hq]
        simp only at h
        refine .inr ⟨x, ?_⟩
        split at h
        case h_6 v =>
          simp only [deliverBipi] at h
          split at h
          · cases h
            exact ⟨_, m, _, hx, hst', hin, hg, by simp, set _, rfl⟩
          · cases h
            exact ⟨s.procs.set p _, m, [], hx, hst', hin, hg, by simp, set _, by rw [List.append_nil]; rfl⟩
        case h_8 =>
          cases h
          refine ⟨s.procs.modify p _, m, [], hx, hst', hin, hg, ?_, fun q hq => ?_, by rw [List.append_nil]; rfl⟩
          · simp
          · simp [List.getElem?_modify, Ne.symm hq]
        all_goals
          cases h
          exact ⟨s.procs.set p _, m, [], hx, hst', hin, hg, by simp, set _, by rw [List.append_nil]; rfl⟩

/-! ## Performing an entry -/

/-- What performing an entry can do. -/
theorem performEntry_cases (s : State) (p : Nat) (e : QEntry) :
    (∃ cells, performEntry s p e = writeData s p cells) ∨ (∃ l, performEntry s p e = performFlush s l) ∨
      (∃ l, performEntry s p e = performClwb s l) ∨ performEntry s p e = s := by
  cases e with
  | w pa n v => exact .inl ⟨_, rfl⟩
  | cf l => exact .inr (.inl ⟨l, rfl⟩)
  | co l => exact .inr (.inl ⟨l, rfl⟩)
  | cw l => exact .inr (.inr (.inl ⟨l, rfl⟩))
  | sf => exact .inr (.inr (.inr rfl))

/-- An entry leaves Q_p only where nothing before it blocks it and no other processor holds the bus lock. -/
theorem perform_next {i : Nat} (h : perform s p i = .next u) :
    u = s ∨ ∃ x e, s.procs[p]? = some x ∧ x.queue[i]? = some e ∧ mayPerform s.cfg x.queue i = true ∧
      busHeld s p = false ∧ u = performEntry (s.setProc p { x with queue := x.queue.eraseIdx i }) p e := by
  unfold perform at h
  split at h
  · cases h
  · rename_i x hx
    split at h
    · cases h; exact .inl rfl
    · rename_i hb
      split at h
      · cases h; exact .inl rfl
      · rename_i e he
        cases h
        exact .inr ⟨x, e, hx, he, by simp_all, by simp_all, rfl⟩

/-! ## Running an instruction -/

/-- A contained outcome is the outcome, or the end of the processor's run at a refusal. -/
theorem contain_next {o : Out} (h : contain s p o = .next u) :
    o = .next u ∨ ∃ r, o = .refused r ∧ u = s.updProc p fun x => { x with refusal := some r } := by
  cases o with
  | next t => cases h; exact .inl rfl
  | fault f => cases h
  | refused r => cases h; exact .inr ⟨r, rfl, rfl⟩

theorem runnable_iff {x : Proc} :
    x.runnable = true ↔ x.activity = .running ∧ x.ended = none ∧ x.refusal = none := by
  simp [Proc.runnable, and_assoc]

/-- A processor's move: it runs an instruction, or has nothing to run. -/
theorem runProc_next (h : runProc s p = .next u) :
    ∃ x, s.procs[p]? = some x ∧
      ((s.Runs p x ∧ contain { s with cur := p } p (runInstr { s with cur := p } p x) = .next u) ∨
        u = { s with cur := p }) := by
  unfold runProc at h
  split at h
  · cases h
  · rename_i x hx
    refine ⟨x, hx, ?_⟩
    split at h
    · rename_i hr
      simp only [Bool.and_eq_true, Bool.not_eq_true', runnable_iff] at hr
      exact .inl ⟨⟨hx, hr.1.1.1, hr.1.1.2.1, hr.1.1.2.2, hr.1.2, hr.2⟩, h⟩
    · cases h; exact .inr rfl

/-- An instruction's effect stands; at the top of the address space its processor's run may end behind it. -/
theorem endAtWrap_next {n : Nat} {o : Out} (h : endAtWrap p x n o = .next u) :
    ∃ t, o = .next t ∧ (u = t ∨
      (pcFits x n = false ∧ u = t.updProc p fun y => { y with refusal := some .pcWraps })) := by
  cases o with
  | next t =>
    refine ⟨t, rfl, ?_⟩
    simp only [endAtWrap] at h
    split at h
    · cases h; exact .inl rfl
    · rename_i hn
      cases h
      exact .inr ⟨by cases hp : pcFits x n <;> simp_all, rfl⟩
  | fault f => cases h
  | refused r => cases h

/-- Where the address after the instruction is one pc holds, nothing else happens. -/
theorem endAtWrap_of_fits {n : Nat} (h : pcFits x n = true) (o : Out) : endAtWrap p x n o = o := by
  cases o <;> simp [endAtWrap, h]

/-- An instruction: an abstract step, a decoded instruction, or one longer than 15 bytes. -/
theorem runInstr_next (h : runInstr s p x = .next u) :
    (∃ e ∈ x.program, e.pc = x.pc ∧ stepStop s.cfg x e.length = none ∧ ∃ t, execStep e.step e.length p x s = .next t ∧
      (u = t ∨ u = t.updProc p fun y => { y with refusal := some .pcWraps })) ∨
    (∃ i t, fetchInstr s p x = .instr i ∧ exec i s = .next t ∧
      (u = t ∨ u = t.updProc p fun y => { y with refusal := some .pcWraps })) ∨
    (fetchInstr s p x = .tooLong ∧ u = raise s p x .gp (some 0#32)) := by
  unfold runInstr at h
  split at h
  · rename_i e he
    have hp := List.find?_some he
    split at h
    · cases h
    · rename_i hs
      refine .inl ⟨e, List.mem_of_find?_eq_some he, by simpa using hp, hs, ?_⟩
      split at h
      · exact ⟨u, h, .inl rfl⟩
      · obtain ⟨t, ht, hu⟩ := endAtWrap_next h
        exact ⟨t, ht, hu.imp id And.right⟩
  · split at h
    · rename_i i hi
      obtain ⟨t, ht, hu⟩ := endAtWrap_next h
      exact .inr (.inl ⟨i, t, hi, ht, hu.imp id And.right⟩)
    · rename_i hi; cases h; exact .inr (.inr ⟨hi, rfl⟩)
    · cases h

end Sys2Proof.Machine
end

