-- ==== Sys2Proof/Laws/PerInstr.lean ====
section
/-! SUPPORT. Laws stated per instruction: the encoding of an instruction has the instruction's length. -/

namespace Sys2Proof

theorem Prefixes.toBytes_length (px : Prefixes) : px.toBytes.length = px.length := by
  obtain ⟨l, r⟩ := px
  cases r <;> simp [Prefixes.toBytes, Prefixes.length]

theorem MemOp.toBytes_length (m : MemOp) : m.toBytes.length = m.length := by
  obtain ⟨_, _, sib, d⟩ := m
  cases sib <;> cases d <;> simp [MemOp.toBytes, MemOp.length, Disp.toBytes, Disp.length]

theorem encodeMem_length (px : Prefixes) (reg : BitVec 3) (m : MemOp) :
    (encodeMem px reg m).length = px.length + 3 + m.length := by
  simp [encodeMem, Prefixes.toBytes_length, MemOp.toBytes_length]
  omega

theorem encodeReg_length (px : Prefixes) (reg rm : BitVec 3) : (encodeReg px reg rm).length = px.length + 3 := by
  simp [encodeReg, Prefixes.toBytes_length]

namespace Laws

/-- The bytes of an instruction are as many as its length (R152). -/
def EncodeLength.Statement (i : Instr) : Prop := (encode i).length = i.length

theorem EncodeLength.clflush (px : Prefixes) (m : MemOp) : EncodeLength.Statement (.clflush px m) :=
  encodeMem_length px _ m

theorem EncodeLength.clflushopt (px : Prefixes) (m : MemOp) : EncodeLength.Statement (.clflushopt px m) :=
  encodeMem_length px _ m

theorem EncodeLength.clwb (px : Prefixes) (m : MemOp) : EncodeLength.Statement (.clwb px m) :=
  encodeMem_length px _ m

theorem EncodeLength.lfence (px : Prefixes) (rm : BitVec 3) : EncodeLength.Statement (.lfence px rm) :=
  encodeReg_length px _ rm

theorem EncodeLength.mfence (px : Prefixes) (rm : BitVec 3) : EncodeLength.Statement (.mfence px rm) :=
  encodeReg_length px _ rm

theorem EncodeLength.sfence (px : Prefixes) (rm : BitVec 3) : EncodeLength.Statement (.sfence px rm) :=
  encodeReg_length px _ rm

end Laws

end Sys2Proof
end

