-- ==== Sys2Proof/Tests/Slice0.lean ====
section
/-! SUPPORT. The smoke test of WellFormed, decoding of words written out from the spec, single steps on small
states with results from 95_test_vectors.md, and for every statement with hypotheses a state that meets them. -/

namespace Sys2Proof.Tests

open Sys2Proof Sys2Proof.Machine

/-! ## Small states -/

/-- A flat segment (95_test_vectors.md, conventions). -/
def flat : SegReg := ⟨8#16, 0#64, 0xFFFFFFFF#32, true, true, true, true, true⟩

/-- A Running processor in 64-bit mode with flat segments and paging off. -/
def proc64 : Proc := { Proc.atReset 0#32 true with
  mode := .mode64, pc := 0x400000#64, segs := ⟨flat, flat, flat, flat, flat, flat⟩, cr0 := ⟨false, false, 0#64⟩ }

/-- The same in protected mode. -/
def proc32 : Proc := { proc64 with mode := .protectedMode }

/-- The same in real-address mode. -/
def procReal : Proc := { proc64 with mode := .realAddress }

/-- Two processors, the first given. -/
def withProc (x : Proc) : State := { State.reset with procs := [x, proc64] }

/-- A page that identity-maps the first 64 KByte, for all or for CPL 0 to 2, and for writes or not. -/
def lowPage (present user writable : Bool) : PageMap :=
  let who : BitVec 4 := if user then 0xF#4 else 7#4
  ⟨0, 0x10000, 0, present, who, if writable then who else 0#4, who, false, false, false⟩

/-- Paging on with one page. -/
def paged (x : Proc) (page : PageMap) : State :=
  { withProc { x with cr0 := ⟨true, false, 0#64⟩, pgInForce := true } with tables := [⟨0#64, [page]⟩] }

/-- No prefixes, and one. -/
def np : Prefixes := ⟨[], none⟩
def px1 (p : LegacyPrefix) : Prefixes := ⟨[p], none⟩

/-- The operand [RAX] or [EAX], or [BX + SI] with 16-bit addressing (mod 00B, r/m 000B). -/
def atRax : MemOp := ⟨0#2, 0#3, none, .none⟩

/-- What a test looks at after a next state. -/
def after (o : Out) (f : State → Bool) : Bool :=
  match o with
  | .next s => f s
  | .fault _ => false
  | .refused _ => false

/-- Whether a step was refused with a reason. -/
def refusedWith (o : Out) (r : Refusal) : Bool :=
  match o with
  | .refused r' => r' == r
  | .next _ => false
  | .fault _ => false

/-- The first processor after a next state. -/
def first (o : Out) (f : Proc → Bool) : Bool := after o fun s => (s.procs[0]?.map f).getD false

/-- How the first processor's run ended, without the open code of a page fault. -/
def endedAs (o : Out) (k : ExcKind) (code : Option W32) : Bool :=
  first o fun x => match x.ended with
    | some r => r.kind == k && (k == .pf || r.code == code) && r.pc == 0x400000#64
    | none => false

/-! ## WellFormed refuses an ill-formed term for each check -/

theorem test_wf_rex_outside_64bit :
    (Instr.clflush ⟨[], some ⟨false, false, false, false⟩⟩ atRax).wf ⟨false, true⟩ = false := by decide
theorem test_wf_memory_form_mod3 : (Instr.clflush np ⟨3#2, 0#3, none, .none⟩).wf ⟨true, false⟩ = false := by decide
theorem test_wf_sib_missing : (Instr.clflush np ⟨0#2, 4#3, none, .none⟩).wf ⟨true, false⟩ = false := by decide
theorem test_wf_sib_with_16bit :
    (Instr.clflush np ⟨0#2, 4#3, some ⟨0#2, 0#3, 0#3⟩, .none⟩).wf ⟨false, false⟩ = false := by decide
theorem test_wf_disp_length : (Instr.clflush np ⟨1#2, 0#3, none, .d32 0#32⟩).wf ⟨true, false⟩ = false := by decide
theorem test_wf_clflush_with_66 : (Instr.clflush (px1 .opSize) atRax).wf ⟨true, false⟩ = false := by decide
theorem test_wf_clflush_with_f3 : (Instr.clflush (px1 .rep) atRax).wf ⟨true, false⟩ = false := by decide
theorem test_wf_clflush_with_f2 : (Instr.clflush (px1 .repne) atRax).wf ⟨true, false⟩ = false := by decide
theorem test_wf_clflushopt_without_66 : (Instr.clflushopt np atRax).wf ⟨true, false⟩ = false := by decide
theorem test_wf_clwb_without_66 : (Instr.clwb np atRax).wf ⟨true, false⟩ = false := by decide
theorem test_wf_clwb_with_f3 : (Instr.clwb ⟨[.opSize, .rep], none⟩ atRax).wf ⟨true, false⟩ = false := by decide
theorem test_wf_clwb_with_f2 : (Instr.clwb ⟨[.opSize, .repne], none⟩ atRax).wf ⟨true, false⟩ = false := by decide
theorem test_wf_fences_with_66 : (Instr.lfence (px1 .opSize) 0#3).wf ⟨true, false⟩ = false ∧
    (Instr.mfence (px1 .rep) 0#3).wf ⟨true, false⟩ = false ∧
    (Instr.sfence (px1 .repne) 0#3).wf ⟨true, false⟩ = false := by decide
theorem test_wf_over_15_bytes :
    (Instr.clflush ⟨List.replicate 13 .cs, none⟩ atRax).wf ⟨true, false⟩ = false ∧
    (Instr.sfence ⟨List.replicate 13 .cs, none⟩ 0#3).wf ⟨true, false⟩ = false := by decide
theorem test_wf_accepts_15_bytes :
    (Instr.clflush ⟨List.replicate 12 .cs, none⟩ atRax).wf ⟨true, false⟩ = true ∧
    (Instr.lfence (px1 .lock) 7#3).wf ⟨false, false⟩ = true := by decide

/-! ## Decoding: the words of R166 and of 95_test_vectors.md 2.1, written out byte by byte -/

theorem test_decode_clflush_rax :
    decode ⟨true, false⟩ [0x0F#8, 0xAE#8, 0x38#8] = .ok (.clflush np atRax) [] := by decide
theorem test_decode_clflush_rbp_disp8 :
    decode ⟨true, false⟩ [0x0F#8, 0xAE#8, 0x7D#8, 0xF0#8] = .ok (.clflush np ⟨1#2, 5#3, none, .d8 0xF0#8⟩) [] := by
  decide
theorem test_decode_clflush_di_16bit :
    decode ⟨false, false⟩ [0x0F#8, 0xAE#8, 0x3D#8, 0x90#8] = .ok (.clflush np ⟨0#2, 5#3, none, .none⟩) [0x90#8] := by
  decide
theorem test_decode_clflushopt_r12 :
    decode ⟨true, false⟩ [0x66#8, 0x41#8, 0x0F#8, 0xAE#8, 0x3C#8, 0x24#8] =
      .ok (.clflushopt ⟨[.opSize], some ⟨false, false, false, true⟩⟩ ⟨0#2, 4#3, some ⟨0#2, 4#3, 4#3⟩, .none⟩) [] := by
  decide
theorem test_decode_clwb_sib_disp32 :
    decode ⟨true, false⟩ [0x66#8, 0x0F#8, 0xAE#8, 0xB4#8, 0x88#8, 0x00#8, 0x10#8, 0x00#8, 0x00#8] =
      .ok (.clwb (px1 .opSize) ⟨2#2, 4#3, some ⟨2#2, 1#3, 0#3⟩, .d32 0x1000#32⟩) [] := by decide
theorem test_decode_fences :
    decode ⟨true, false⟩ [0x0F#8, 0xAE#8, 0xEA#8] = .ok (.lfence np 2#3) [] ∧
    decode ⟨false, true⟩ [0x0F#8, 0xAE#8, 0xF5#8] = .ok (.mfence np 5#3) [] ∧
    decode ⟨false, false⟩ [0x0F#8, 0xAE#8, 0xFD#8] = .ok (.sfence np 5#3) [] := by decide
theorem test_decode_refusals :
    decode ⟨true, false⟩ [0xF3#8, 0x0F#8, 0xAE#8, 0x38#8] = .outside .clflushWithRepeat ∧
    decode ⟨true, false⟩ [0x66#8, 0xF2#8, 0x0F#8, 0xAE#8, 0x30#8] = .outside .clwbWithRepeat ∧
    decode ⟨true, false⟩ [0x0F#8, 0xAE#8, 0x30#8] = .outside .reg6Without66 ∧
    decode ⟨true, false⟩ [0x66#8, 0x0F#8, 0xAE#8, 0xF8#8] = .outside .fenceWithMandatoryPrefix ∧
    decode ⟨true, false⟩ [0x0F#8, 0xAE#8, 0x28#8] = .outside .otherReg ∧
    decode ⟨false, true⟩ [0x48#8, 0x0F#8, 0xAE#8, 0xF8#8] = .outside .otherOpcode := by decide
theorem test_decode_16_bytes_too_long :
    decode ⟨true, false⟩ (List.replicate 13 0x2E#8 ++ [0x0F#8, 0xAE#8, 0x38#8]) = .tooLong := by decide
theorem test_table_words :
    decodeTableWord 24 0x0FAE38 = some (.clflush np atRax) ∧
    decodeTableWord 24 0x0FAE30 = some (.clwb (px1 .opSize) atRax) ∧
    decodeTableWord 24 0x0FAEE8 = some (.lfence np 0#3) ∧
    decodeTableWord 24 0x0FAEF0 = some (.mfence np 0#3) ∧
    decodeTableWord 24 0x0FAEF8 = some (.sfence np 0#3) := by decide

/-! ## Effective addresses: 95_test_vectors.md 2.2, rows 6, 12, 15, 17, 20 -/

theorem test_ea_rip_relative :
    operandLinear Config.default proc64 np ⟨0#2, 5#3, none, .d32 0x10#32⟩ 7 true = .ok 0x400017#64 := by decide
theorem test_ea_rex_x_index_r12 :
    operandLinear Config.default ((proc64.setReg .rax 0x3000#64).setReg .r12 0x10#64)
      ⟨[], some ⟨false, false, true, false⟩⟩ ⟨0#2, 4#3, some ⟨1#2, 4#3, 0#3⟩, .none⟩ 5 true = .ok 0x3020#64 := by
  decide
theorem test_ea_fs_base :
    operandLinear Config.default
      { proc64.setReg .rax 0x20#64 with segs := { proc64.segs with fs := { flat with base := 0x7000#64 } } }
      (px1 .fs) atRax 4 true = .ok 0x7020#64 := by decide
theorem test_ea_wraps_32 :
    operandLinear Config.default (proc32.setReg .rbp 0xFFFFFFFC#64) np ⟨1#2, 5#3, none, .d8 8#8⟩ 4 true =
      .ok 4#64 := by decide
theorem test_ea_wraps_16 :
    operandLinear Config.default ((procReal.setReg .rbx 0xFFF0#64).setReg .rsi 0x20#64) np atRax 3 true =
      .ok 0x90#64 := by decide

/-! ## The six instructions: 40_cache_line_flush.md R210 and 95_test_vectors.md 2.4 -/

theorem test_clflush_queues_its_line :
    first (exec (.clflush np atRax) (withProc (proc64.setReg .rax 0x103F#64)))
      (fun x => x.queue == [.cf 0x1000] && x.pc == 0x400003#64) = true := by decide
theorem test_clflush_non_canonical :
    endedAs (exec (.clflush np atRax) (withProc (proc64.setReg .rax 0x800000000000#64))) .gp (some 0#32) = true := by
  decide
theorem test_clflushopt_with_f3 :
    endedAs (exec (.clflushopt ⟨[.rep, .opSize], none⟩ atRax) (withProc proc64)) .ud none = true := by decide
theorem test_clflushopt_execute_only :
    first (exec (.clflushopt ⟨[.cs, .opSize], none⟩ atRax)
      (withProc { proc32 with segs := { proc32.segs with cs := { flat with readable := false } } }))
      (fun x => x.queue == [.co 0] && x.ended == none) = true := by decide
theorem test_clwb_execute_only :
    endedAs (exec (.clwb ⟨[.cs, .opSize], none⟩ atRax)
      (withProc { proc32 with segs := { proc32.segs with cs := { flat with readable := false } } }))
      .gp (some 0#32) = true := by decide
theorem test_clwb_user_read_only_page :
    after (exec (.clwb (px1 .opSize) atRax) (paged { proc32 with cpl := 3#2 } (lowPage true true false)))
      (fun s => s.tables == [⟨0#64, [{ lowPage true true false with accessed := true }]⟩] &&
        s.procs.map (·.queue) == [[.cw 0], []]) = true := by decide
theorem test_lfence_ignores_the_queue :
    first (exec (.lfence np 5#3) (withProc { proc64 with queue := [.w 0x1000 1 1#64] }))
      (fun x => x.pc == 0x400003#64 && x.queue == [.w 0x1000 1 1#64]) = true := by decide
theorem test_lfence_without_sse2 :
    endedAs (exec (.lfence np 0#3) { withProc proc64 with cfg := { Config.default with hasSse2 := false } })
      .ud none = true := by decide
theorem test_mfence_waits :
    first (exec (.mfence np 0#3) (withProc { proc64 with queue := [.w 0x1000 1 1#64] }))
      (fun x => x.pc == 0x400000#64) = true := by decide
theorem test_mfence_with_lock : endedAs (exec (.mfence (px1 .lock) 0#3) (withProc proc64)) .ud none = true := by decide
theorem test_sfence_appends :
    first (exec (.sfence np 0#3) (withProc { proc64 with queue := [.w 0x1000 1 1#64] }))
      (fun x => x.pc == 0x400003#64 && x.queue == [.w 0x1000 1 1#64, .sf]) = true := by decide
theorem test_sfence_needs_sse_not_sse2 :
    first (exec (.sfence np 0#3) { withProc proc64 with cfg := { Config.default with hasSse2 := false } })
      (fun x => x.ended == none && x.queue == [.sf]) = true := by decide
theorem test_fence_with_cs_override :
    refusedWith (exec (.mfence (px1 .cs) 0#3) (withProc proc64)) .fencePrefix = true := by decide

/-! ## Steps -/

theorem test_step_fetches_at_reset :
    after (step (State.reset.withFetchWord 24 0x0FAEF8))
      (fun s => s.procs.map (·.pc) == [0xFFFFFFF3#64, 0xFFFFFFF0#64] && s.procs.map (·.queue) == [[.sf], []]) =
      true := by decide
theorem test_step_clwb_at_reset :
    after (step (State.reset.withFetchWord 24 0x0FAE30))
      (fun s => s.procs.map (·.queue) == [[.cw 0], []]) = true := by decide
/-- D23: the refused processor's run ends, the system goes on. -/
theorem test_step_ends_the_run_on_empty_memory :
    after (step State.reset) (fun s => s.procs.map (·.refusal) == [some (.outsideSpecification 0), none]) = true := by
  decide
theorem test_rotation_performs_the_head :
    after (step { withProc { proc64 with queue := [.w 0x1000 1 0xAA#64] } with turn := 2 })
      (fun s => s.coh == [(0x1000, 0xAA#8)] && s.mem == [] && s.lines == [(0x1000, .modified)] && s.turn == 3) =
      true := by decide

/-- 95_test_vectors.md 2.3 row 1: a Modified line with Coh = AAH and Mem = 00H, CF performed. -/
def dirtyLine : State :=
  { withProc { proc64 with queue := [.cf 0x1000] } with coh := [(0x1008, 0xAA#8)], lines := [(0x1000, .modified)] }

theorem test_perform_cf :
    after (doEvent dirtyLine (.perform 0 0))
      (fun s => s.mem == [(0x1008, 0xAA#8)] && s.coh == [(0x1008, 0xAA#8)] && s.lines == []) = true := by decide
theorem test_invd_loses :
    after (execStep .invd 2 0 proc64 { dirtyLine with procs := [proc64, proc64] })
      (fun s => s.coh == [] && s.mem == [] && s.lines == []) = true := by decide
theorem test_split_verdicts :
    oneEvent Config.default [0x1000, 0x1001] = true ∧ oneEvent Config.default [0x1001, 0x1002] = true ∧
    oneEvent Config.default [0x103F, 0x1040] = false ∧
    oneEvent { Config.default with p6AtomicWithinLine := false } [0x1001, 0x1002] = false := by decide
theorem test_xchg :
    after (execStep (.xchg ⟨none, 0x1000#64⟩ .rbx .w1) 3 0 (proc64.setReg .rbx 5#64)
      { withProc (proc64.setReg .rbx 5#64) with coh := [(0x1000, 7#8)], mem := [(0x1000, 7#8)] })
      (fun s => s.coh == [(0x1000, 5#8)] && s.lines == [(0x1000, .modified)] &&
        s.procs.map (fun x => x.reg .rbx) == [7#64, 0#64]) = true := by decide
theorem test_sipi_bd :
    ((Proc.atReset 1#32 false).takeSipi 0xBD#8).pc = 0xBD000#64 ∧ ipiKindOf 0xC46BD#32 = .sipi 0xBD#8 ∧
    ipiKindOf 0xC4500#32 = .init ∧ ipiDests Config.default 0 0xC4500#32 = [some 1] := by decide
theorem test_find_mask_width :
    ([0, 1, 2, 3, 5, 9, 256, 257, 65536, 65537].map fun c => findMaskWidth (BitVec.ofNat 32 c)) =
      [16, 0, 1, 2, 3, 4, 8, 9, 16, 0] := by decide
/-- Tables 8-2 and 8-3: MaxLPIDsPerPackage 2 and 4, MaxCoreIDsPerPackage 1 and 2; package, core and SMT ID. -/
theorem test_tables_82_83 :
    legacyMasksOf 2 1 = ⟨0x01#32, 0x00#32, 0xFE#32⟩ ∧ legacyMasksOf 4 2 = ⟨0x01#32, 0x02#32, 0xFC#32⟩ ∧
    (legacyShifts 2 1 = (1, 1) ∧ zeroBasedIds (legacyMasksOf 2 1) 1 1 7#32 = (3#32, 0#32, 1#32)) ∧
    (legacyShifts 4 2 = (1, 2) ∧ zeroBasedIds (legacyMasksOf 4 2) 1 2 6#32 = (1#32, 1#32, 0#32)) := by decide
/-- Table 8-4: sub-leaf shifts 1 and 4. -/
theorem test_table_84 :
    topoMasks [⟨1#8, 1#5⟩, ⟨2#8, 4#5⟩, ⟨0#8, 0#5⟩] = some ⟨1#32, 0xE#32, 0xFFFFFFF0#32⟩ ∧
    bitWidths [⟨1#8, 1#5⟩, ⟨2#8, 4#5⟩, ⟨0#8, 0#5⟩] = [1, 3] ∧
    zeroBasedIds ⟨1#32, 0xE#32, 0xFFFFFFF0#32⟩ 1 4 0x17#32 = (1#32, 3#32, 1#32) := by decide
/-- Table 8-4's system of 8 IDs, processors 2 and 5 not started: two packages, three cores. -/
theorem test_enumeration :
    let c : Config := { Config.default with
      procs := [0, 1, 2, 7, 0x10, 0x11, 0x12].map fun i => ⟨i, 0, 0⟩
      levels0B := [⟨1#8, 1#5⟩, ⟨2#8, 4#5⟩], levels1F := [] }
    (enumerate c 0b1011011).numStartedLPs = 5 ∧
    (enumerate c 0b1011011).packages = [(0#32, 0b00111), (0x10#32, 0b11000)] ∧
    (enumerate c 0b1011011).cores = [(0#32, 0b00011), (6#32, 0b00100), (0x10#32, 0b01000), (0x12#32, 0b10000)] := by
  decide
/-- An unknown level type 9 between core and die extends the core, in the seven fields and in the die masks
(R319); the package field is 2 bits wide. -/
theorem test_seven_levels :
    let c : Config := { Config.default with packageWidth := 2 }
    let l : List TopoLevel := [⟨1#8, 1#5⟩, ⟨2#8, 3#5⟩, ⟨9#8, 4#5⟩, ⟨5#8, 6#5⟩, ⟨0#8, 0#5⟩]
    idFields c l 0x1F7#32 = ⟨1#32, 3#32, 0#32, 0#32, 3#32, 3#32, 1#32⟩ ∧
    dieMasks c l = some ⟨1#32, 0xF#32, 0x3F#32, 0xE#32, 0x30#32, 0xFFFFFFC0#32⟩ := by decide
theorem test_early_ids :
    xeonId 0x1D#8 = ⟨1#1, 2#2, 3#2⟩ ∧ xeonRole 0x1D#8 = .secondary ∧ validXeonId false 0x1D#8 = false ∧
    p6Id 0xE#4 = some ⟨2#2, 3#2⟩ ∧ p6Id 0xF#4 = none ∧ bipiVector 0xE#4 = some 0x4E#8 ∧ bipiVector 0xF#4 = none := by
  decide
theorem test_selection :
    selectionOf ⟨6#4, 0xD#4, 0#4, 0#4⟩ = some .apicBus ∧ selectionOf ⟨6#4, 0xE#4, 0#4, 0#4⟩ = some .specialCycle ∧
    selectionOf ⟨0xF#4, 0#4, 9#4, 0#4⟩ = some .systemBusMessages ∧
    selectionOf ⟨0xF#4, 0#4, 0xA#4, 0#4⟩ = some .specialCycle ∧ selectionOf ⟨6#4, 0#4, 0#4, 1#4⟩ = some .platform := by
  decide

/-! ## Moves of the environment -/

/-- A P6 system of two processors whose second is selected by BIPI and FIPI (R352). -/
def arbitrating : State :=
  let c : Config := { Config.default with signature := ⟨6#4, 8#4, 0#4, 0#4⟩, hasLeaf0B := false, bspIndex := 1 }
  match doEvent (State.resetWith c) .resetArbitrating with
  | .next s => s
  | .fault _ => State.reset
  | .refused _ => State.reset
theorem test_arbitration_selects_the_first_sender :
    (runEvents arbitrating [.deliver 0, .deliver 1, .deliver 1, .deliver 0, .deliver 0]).map
      (fun s => s.procs.map fun x => (x.bspFlag, x.activity)) =
        some [(false, .waitForSipi), (true, .waitForSipi)] ∧
    (runEvents arbitrating [.deliver 0, .deliver 1, .deliver 1, .deliver 1]).map
      (fun s => s.procs.map fun x => (x.activity, x.boot)) = some [(.waitForSipi, .done), (.waitForSipi, .awaitingFipi)] ∧
    (runEvents arbitrating [.deliver 0, .deliver 1, .deliver 1, .deliver 1, .deliver 0, .deliver 1]).map
      (fun s => s.procs.map fun x => (x.activity, x.boot)) = some [(.waitForSipi, .done), (.running, .done)] := by
  decide
/-- R309, R335: no SIPI is taken while STPCLK# is asserted. -/
theorem test_stpclk_holds_a_sipi :
    let s : State := { State.reset with ipis := [⟨some 1, .sipi 9#8⟩] }
    (runEvents s [.stpclk 0 true, .deliver 1]).map (fun t => t.procs.map (·.activity)) =
      some [.stopGrant .running, .waitForSipi] ∧
    (runEvents s [.stpclk 0 true, .deliver 1, .stpclk 0 false, .deliver 1]).map
      (fun t => t.procs.map (·.activity)) = some [.running, .running] := by decide
/-- R147: while processor 0 waits to serialize the core, processor 1 executes nothing. -/
theorem test_serializing_holds_the_core :
    let s : State := { withProc { proc64 with program := [⟨0x400000#64, 2, .wbinvd⟩] } with
      procs := [{ proc64 with program := [⟨0x400000#64, 2, .wbinvd⟩] },
        { proc64 with queue := [.sf], program := [⟨0x400000#64, 2, .pause⟩] }] }
    (runEvents s [.exec 0, .exec 1, .perform 1 0, .exec 0, .exec 1]).map (fun t => t.procs.map (·.pc)) =
      some [0x400002#64, 0x400002#64] ∧
    (runEvents s [.exec 0, .exec 1]).map (fun t => t.procs.map (·.pc)) = some [0x400000#64, 0x400000#64] := by decide
/-- R21: EAX = FFFFFFFFH plus 1 is 0 outside 64-bit mode. -/
theorem test_registers_have_32_bits_outside_64bit_mode :
    first (execStep (.addReg .rax (.imm 1#64)) 3 0 (proc32.setReg .rax 0xFFFFFFFF#64) (withProc proc32))
      (fun x => x.reg .rax == 0#64) = true ∧
    first (execStep (.addReg .rax (.imm 1#64)) 3 0 (proc64.setReg .rax 0xFFFFFFFF#64) (withProc proc64))
      (fun x => x.reg .rax == 0x100000000#64) = true := by decide
/-- R92 (c): the accessed flag of the descriptor is set. -/
theorem test_segment_load_sets_accessed :
    after (execStep (.movSeg .ds 8#16) 2 0 proc32
      { withProc proc32 with descriptors := [⟨8#16, flat, false, false, false⟩] })
      (fun s => s.descriptors.map (·.accessed) == [true]) = true := by decide
/-- R92 (b): the busy flag is set, LTR waits for the lock, and a second switch to the task is not made. -/
theorem test_task_switch_sets_busy :
    let d : Descriptor := ⟨0x28#16, flat, true, false, false⟩
    after (execStep (.taskSwitch 0x28#16) 2 0 proc32 { withProc proc32 with descriptors := [d] })
      (fun s => s.descriptors.map (·.busy) == [true]) = true ∧
    after (execStep (.ltr ⟨0x28#16, 0#64, 0#32⟩) 2 0 proc32
      { withProc proc32 with descriptors := [d], busLock := some 1 })
      (fun s => s.descriptors.map (·.busy) == [false]) = true ∧
    endedAs (execStep (.taskSwitch 0x28#16) 2 0 proc32
      { withProc proc32 with descriptors := [{ d with busy := true }] }) .gp (some 0x28#32) = true := by decide
/-- R26, R257: a task switch drops the processor's cached translations that are not global, and those alone. -/
theorem test_task_switch_drops_translations :
    let page := lowPage true true true
    after (execStep (.taskSwitch 0x28#16) 2 0 proc32
      { withProc proc32 with
        descriptors := [⟨0x28#16, flat, true, false, false⟩]
        tlb := [⟨0, page⟩, ⟨1, page⟩, ⟨0, { page with global := true }⟩] })
      (fun s => s.tlb == [⟨1, page⟩, ⟨0, { page with global := true }⟩]) = true := by decide
/-- R246: STOS without REP stores one element and moves EDI alone. -/
theorem test_stos :
    first (execStep (.stos .w1) 1 0 (proc32.setReg .rdi 0x1000#64) (withProc proc32))
      (fun x => x.queue == [.w 0x1000 1 0#64] && x.reg .rdi == 0x1001#64 && x.reg .rcx == 0#64) = true := by decide
/-- R30, R304: in x2APIC mode the ICR is an MSR; in xAPIC mode it is not. -/
theorem test_x2apic_mode :
    after (execStep (.wrmsr (.x2apic 0x2E) (.imm 0x10000C500#64)) 2 0 { proc64 with x2apic := true }
      (withProc { proc64 with x2apic := true })) (fun s => s.ipis.map (·.kind) == [.init]) = true ∧
    endedAs (execStep (.wrmsr (.x2apic 0x2E) (.imm 0#64)) 2 0 proc64 (withProc proc64)) .gp (some 0#32) = true := by
  decide
/-- D8, R163: an instruction whose last byte is FFFFFFFFH is fetched: F0 0F AE 38 there is #UD, a jump there jumps,
PAUSE there completes before the run ends behind it (U17); one byte further its bytes pass the top. -/
def atTop (n : Nat) : Proc := { proc32 with pc := 0xFFFFFFFF#64 - BitVec.ofNat 64 n }
theorem test_instruction_at_the_top :
    let lockFlush (x : Proc) : State :=
      (withProc x).withFetchWord 32 0xF00FAE38
    let placed (e : AbsStep) : State := withProc { atTop 1 with program := [⟨0xFFFFFFFE#64, 2, e⟩] }
    first (runProc (lockFlush (atTop 3)) 0) (fun x => x.ended == some ⟨.ud, none, 0xFFFFFFFC#64⟩) = true ∧
    first (runProc (placed (.jump 0x1000#64)) 0) (fun x => x.pc == 0x1000#64 && x.refusal == none) = true ∧
    first (runProc (placed .pause) 0) (fun x => x.pc == 0#64 && x.refusal == some .pcWraps) = true ∧
    first (runProc (withProc { atTop 1 with program := [⟨0xFFFFFFFE#64, 3, .pause⟩] }) 0)
      (fun x => x.pc == 0xFFFFFFFE#64 && x.refusal == some .fetchPastTop) = true := by decide
/-- R244: a string output of one byte waits for the queue, then goes to the port in DX. -/
theorem test_outs :
    let x := (proc32.setReg .rsi 0x1000#64).setReg .rdx 0x80#64
    after (execStep (.outs .w1 false) 1 0 x { withProc x with coh := [(0x1000, 7#8)] })
      (fun s => s.ioTrace == [⟨0, 0x80#16, some 7#64⟩] && (s.procs[0]?.map (·.reg .rsi)) == some 0x1001#64) = true ∧
    first (execStep (.outs .w1 false) 1 0 { x with queue := [.sf] } (withProc { x with queue := [.sf] }))
      (fun y => y.pc == 0x400000#64) = true := by decide
/-- R146, R244: an element of REP string input goes to ES:EDI, is complete when Q_p is empty again, and the step stays
until the count is zero. -/
theorem test_rep_ins :
    let x := (proc32.setReg .rdi 0x1000#64).setReg .rcx 2#64
    let go (y : Proc) : Out := execStep (.ins .w1 true) 2 0 y (withProc y)
    first (go x) (fun y => y.queue.length == 1 && y.pc == x.pc && y.reg .rcx == 2#64 && y.ioStore) = true ∧
    first (go { x with queue := [.sf], ioStore := true }) (fun y => y.reg .rdi == 0x1000#64) = true ∧
    first (go { x with ioStore := true }) (fun y =>
      y.queue == [] && y.pc == x.pc && y.reg .rcx == 1#64 && y.reg .rdi == 0x1001#64 && !y.ioStore) = true := by
  decide
/-- R22, D8: with CS base 1000H and limit FFFFFFFFH a two-byte instruction at EIP FFFFFFFFH passes the limit; one at EIP
FFFFFFFEH runs and ends behind it. -/
theorem test_segment_wrap :
    let at_ (pc : W64) : State := withProc { proc32 with
      pc := pc, segs := { proc32.segs with cs := { flat with base := 0x1000#64 } }, program := [⟨pc, 2, .pause⟩] }
    first (runProc (at_ 0xFFF#64) 0) (fun x => x.refusal == some .fetchPastSegmentLimit && x.pc == 0xFFF#64) = true ∧
    first (runProc (at_ 0xFFE#64) 0) (fun x => x.refusal == some .pcWraps && x.pc == 0x1000#64) = true := by decide
/-- R332, R378: a SIPI does not wake a halted processor, an NMI does. -/
theorem test_run_ended :
    let halted : Proc := { proc64 with activity := .halted }
    let s (k : IpiKind) : State := { withProc halted with ipis := [⟨some 0, k⟩] }
    (s (.sipi 9#8)).runEnded 0 halted = true ∧ (s .nmi).runEnded 0 halted = false := by decide
/-- R334: a processor that a machine check shuts down during the selection stays shut down. -/
theorem test_shutdown_in_the_selection :
    (runEvents arbitrating [.machineCheck 0, .deliver 1, .deliver 1, .deliver 1, .deliver 0, .deliver 0, .deliver 0]).map
      (fun s => (s.procs.map (·.activity), s.ipis)) = some ([.shutdown, .shutdown], []) := by decide
/-- R28, R29: WRMSR writes one word of the processor's last-branch-record stack, RDMSR reads it. -/
theorem test_lbr_stack :
    (writeMsr (withProc proc64) 0 (.lbr 2) 7#64).procs.map (·.lbr) = [[0#64, 0#64, 7#64], []] ∧
    first (execStep (.rdmsr (.lbr 1) .rbx) 2 0 { proc64 with lbr := [5#64, 6#64] }
      (withProc { proc64 with lbr := [5#64, 6#64] })) (fun x => x.reg .rbx == 6#64) = true := by decide
/-- R145, R255, D17: CR0.CD keeps fills out and nothing else; a WB write makes its line Modified. -/
theorem test_disabled_cache :
    let x : Proc := { proc64 with cr0 := ⟨false, true, 0#64⟩, queue := [.w 0x1000 1 5#64] }
    after (doEvent (withProc x) (.perform 0 0)) (fun s => s.lines == [(0x1000, .modified)] && s.mem == []) = true ∧
    after (doEvent (withProc x) (.fill 0x1000)) (fun s => s.lines == []) = true := by decide
/-- R81: a write that waits when A20M# is asserted goes to the address with bit 20 zero, byte by byte where its bytes
part. -/
theorem test_a20m_masks_the_queue :
    let x : Proc := { proc64 with queue := [.w 0x100010 2 0xBBAA#64, .w 0xFFFFF 2 0xBBAA#64, .cf 0x100040] }
    first (doEvent (withProc x) (.a20m 0 true))
      (fun y => y.queue == [.w 0x10 2 0xBBAA#64, .w 0xFFFFF 1 0xAA#64, .w 0 1 0xBB#64, .cf 0x40]) = true := by decide
/-- R22: EIP has 32 bits, RIP 64. -/
theorem test_pc_width :
    first (execStep (.jump 0x100000010#64) 2 0 proc32 (withProc proc32)) (fun x => x.pc == 0x10#64) = true ∧
    first (execStep (.jump 0x100000010#64) 2 0 proc64 (withProc proc64)) (fun x => x.pc == 0x100000010#64) = true := by
  decide
/-- R378: a load past PA_BITS ends the run of its processor, and the step answers a next state. -/
theorem test_physical_address_past_the_end :
    first (doEvent (withProc { proc64 with program := [⟨0x400000#64, 3, .load .rax ⟨none, 0x1000000000#64⟩ .w1⟩] })
      (.exec 0)) (fun x => x.refusal == some .outsidePhysicalSpace) = true := by decide

/-- R280, D27: the vector numbers that label outcomes. -/
theorem test_vector_labels :
    ([ExcKind.ud, .ss, .gp, .pf, .mc].map fun k => (FaultRecord.mk k none 0#64).vector) =
      [some 6, some 12, some 13, some 14, some 18] := by decide

/-! ## A state for the hypotheses of every statement, at a boundary value of each clause

A hypothesis that an exec answers a next state t whose processor is y is shown by `first`, which looks at that y. -/

theorem inv_of_equal {s : State} (h : Memory.wf s.coh = true) (hl : linesWf s.lines = true) (e : s.mem = s.coh) :
    s.Inv := ⟨⟨h, e ▸ h, hl⟩, fun _ _ => by rw [e]⟩

theorem dirtyLine_inv : dirtyLine.Inv := by
  refine ⟨⟨by decide, by decide, by decide⟩, fun a h => ?_⟩
  by_cases e : a = 0x1008
  · subst e; exact absurd (by decide) h
  · have : (0x1008 : Nat) ≠ a := Ne.symm e
    simp [readByte, dirtyLine, mget, withProc, State.reset, State.resetWith, this]

theorem witness_DecodeOfEncode :
    (Instr.clflush np ⟨2#2, 4#3, some ⟨3#2, 7#3, 5#3⟩, .d32 0xFFFFFFFF#32⟩).wf ⟨true, false⟩ = true ∧
    (Instr.clflushopt ⟨[.rep, .opSize], none⟩ ⟨1#2, 7#3, none, .d8 0x80#8⟩).wf ⟨false, true⟩ = true ∧
    (Instr.clwb ⟨[.opSize, .gs], some ⟨true, true, true, true⟩⟩ ⟨0#2, 5#3, none, .d32 0#32⟩).wf ⟨true, true⟩ = true ∧
    (Instr.clwb (px1 .opSize) ⟨0#2, 6#3, none, .d16 0xFFFF#16⟩).wf ⟨false, false⟩ = true ∧
    (Instr.lfence ⟨List.replicate 12 .lock, none⟩ 0#3).wf ⟨false, false⟩ = true ∧
    (Instr.mfence np 7#3).wf ⟨false, true⟩ = true ∧
    (Instr.sfence ⟨[], some ⟨true, false, false, false⟩⟩ 7#3).wf ⟨true, false⟩ = true := by decide
theorem witness_EncodeOfDecode :
    decode ⟨true, false⟩ [0x66#8, 0x41#8, 0x0F#8, 0xAE#8, 0x74#8, 0x24#8, 0x80#8, 0x90#8] =
      .ok (.clwb ⟨[.opSize], some ⟨false, false, false, true⟩⟩ ⟨1#2, 4#3, some ⟨0#2, 4#3, 4#3⟩, .d8 0x80#8⟩)
        [0x90#8] := by decide

/-- Each disjunct of the hypothesis: the ModRM bytes 28H, 30H, 38H, E0H and E8H with the prefixes that matter. -/
theorem witness_UndefinedCombinationsDoNotDecode :
    ((0x28#8).extractLsb' 6 2 ≠ 3#2 ∧ ((0x28#8).extractLsb' 3 3).toNat < 6) ∧
    ((0x30#8).extractLsb' 6 2 ≠ 3#2 ∧ ((0x30#8).extractLsb' 3 3).toNat = 6 ∧
      ([] : List LegacyPrefix).contains .opSize = false) ∧
    [LegacyPrefix.opSize, .repne].contains .repne = true ∧
    ((0x38#8).extractLsb' 6 2 ≠ 3#2 ∧ ((0x38#8).extractLsb' 3 3).toNat = 7 ∧
      ([LegacyPrefix.rep].contains .rep = true ∧ [LegacyPrefix.rep].contains .opSize = false)) ∧
    ((0xE0#8).extractLsb' 6 2 = 3#2 ∧ ((0xE0#8).extractLsb' 3 3).toNat < 5) ∧
    ((0xE8#8).extractLsb' 6 2 = 3#2 ∧ [LegacyPrefix.opSize].contains .opSize = true ∧
      [LegacyPrefix.repne].contains .repne = true) := by decide

/-- The last byte of a line and of the canonical half, for the three cache-line instructions. -/
def lastByte : Proc := proc64.setReg .rax 0x7FFFFFFFFFFF#64
theorem witness_ClflushQueuesItsLine :
    (withProc lastByte).procs[(withProc lastByte).cur]? = some lastByte ∧ np.has .lock = false ∧
    (withProc lastByte).cfg.hasClfsh = true ∧
    operandLinear (withProc lastByte).cfg lastByte np atRax (np.length + 3 + atRax.length) true =
      .ok 0x7FFFFFFFFFFF#64 ∧
    translate (withProc lastByte) 0 lastByte 0x7FFFFFFFFFFF .read = .ok 0x7FFFFFFFFFFF [] := by decide
theorem witness_ClflushoptQueuesItsLine :
    (withProc lastByte).procs[(withProc lastByte).cur]? = some lastByte ∧ (px1 .opSize).has .lock = false ∧
    (px1 .opSize).has .repne = false ∧ (px1 .opSize).has .rep = false ∧
    (withProc lastByte).cfg.hasClflushopt = true ∧
    operandLinear (withProc lastByte).cfg lastByte (px1 .opSize) atRax ((px1 .opSize).length + 3 + atRax.length) true =
      .ok 0x7FFFFFFFFFFF#64 ∧
    translate (withProc lastByte) 0 lastByte 0x7FFFFFFFFFFF .read = .ok 0x7FFFFFFFFFFF [] := by decide
theorem witness_ClwbQueuesItsLine :
    (withProc lastByte).procs[(withProc lastByte).cur]? = some lastByte ∧ (px1 .opSize).has .lock = false ∧
    (withProc lastByte).cfg.hasClwb = true ∧
    operandLinear (withProc lastByte).cfg lastByte (px1 .opSize) atRax ((px1 .opSize).length + 3 + atRax.length)
      (withProc lastByte).cfg.clwbExecOnlyOk = .ok 0x7FFFFFFFFFFF#64 ∧
    translate (withProc lastByte) 0 lastByte 0x7FFFFFFFFFFF .read = .ok 0x7FFFFFFFFFFF [] := by decide

/-- A processor with a queue, for the fences. -/
def busy : Proc := { proc64 with queue := [.w 0x1000 1 1#64, .cf 0x1000] }
theorem witness_LfenceMovesPcAlone :
    (withProc busy).procs[(withProc busy).cur]? = some busy ∧ np.has .lock = false ∧
    (withProc busy).cfg.hasSse2 = true ∧ fencePrefixPresent np = false := by decide
theorem witness_MfenceWaitsForItsQueue :
    (withProc busy).procs[(withProc busy).cur]? = some busy ∧ busy.queue ≠ [] ∧
    (withProc proc64).procs[(withProc proc64).cur]? = some proc64 ∧ proc64.queue = [] ∧ np.has .lock = false ∧
    (withProc busy).cfg.hasSse2 = true ∧ (withProc proc64).cfg.hasSse2 = true ∧ fencePrefixPresent np = false := by
  decide
theorem witness_SfenceQueuesItsMarker :
    (withProc busy).procs[(withProc busy).cur]? = some busy ∧ np.has .lock = false ∧
    (withProc busy).cfg.hasSse = true ∧ fencePrefixPresent np = false := by decide
/-- The other side of the fences' hypothesis on prefixes. -/
theorem witness_fence_prefixes_ignored :
    let s := { withProc busy with cfg := { Config.default with fenceIgnoresPrefixes := true } }
    s.procs[s.cur]? = some busy ∧ (px1 .addrSize).has .lock = false ∧ s.cfg.hasSse2 = true ∧ s.cfg.hasSse = true ∧
    fencePrefixPresent (px1 .addrSize) = true ∧ s.cfg.fenceIgnoresPrefixes = true := by decide
theorem witness_FencePrefixesAreRefused :
    (withProc busy).procs[(withProc busy).cur]? = some busy ∧ fencePrefixPresent (px1 .gs) = true ∧
    fencePrefixPresent ⟨[], some ⟨false, false, false, false⟩⟩ = true ∧
    (withProc busy).cfg.fenceIgnoresPrefixes = false := by decide

/-- Each of the six answers a next state; `witness_FlushSetsAccessedFlag` is one that also sets an accessed flag. -/
theorem witness_SixInstructionsFrame :
    ([Instr.clflush np atRax, .clflushopt (px1 .opSize) atRax, .clwb (px1 .opSize) atRax, .lfence np 0#3,
      .mfence np 0#3, .sfence np 0#3].all fun i => after (exec i (withProc busy)) fun _ => true) = true := by decide
/-- A page not present and one not accessed: the tables stay, and change. -/
theorem witness_SixInstructionsSetAccessedAlone :
    after (exec (.clflush np atRax) (paged proc32 (lowPage false true true)))
      (fun t => t.tables == [⟨0#64, [lowPage false true true]⟩]) = true ∧
    after (exec (.clflush np atRax) (paged proc32 (lowPage true true true)))
      (fun t => t.tables == [⟨0#64, [{ lowPage true true true with accessed := true }]⟩]) = true := by decide
/-- The last byte of the page. -/
theorem witness_FlushSetsAccessedFlag :
    let x : Proc := { proc32.setReg .rax 0xFFFF#64 with cr0 := ⟨true, false, 0#64⟩, pgInForce := true }
    let s := paged (proc32.setReg .rax 0xFFFF#64) (lowPage true true true)
    memoryForm (.clflush np atRax) = some (np, atRax) ∧ s.procs[s.cur]? = some x ∧ x.mode ≠ .realAddress ∧
    operandLinear s.cfg x np atRax 3 true = .ok 0xFFFF#64 ∧
    after (exec (.clflush np atRax) s) (fun t => (walk t x 0xFFFF).isSome) = true ∧
    first (exec (.clflush np atRax) s) (fun y => y.ended == none) = true := by decide
theorem witness_ExceptionsHaveNoEffect :
    (withProc proc64).procs[(withProc proc64).cur]? = some proc64 ∧ proc64.ended = none ∧
    first (exec (.clwb ⟨[.lock, .opSize], none⟩ atRax) (withProc proc64)) (fun y => y.ended != none) = true := by
  decide
theorem witness_UndefinedOpcodeConditions :
    (withProc proc64).procs[(withProc proc64).cur]? = some proc64 ∧
    undefinedOpcode Config.default (.clflush (px1 .lock) atRax) = true ∧
    undefinedOpcode Config.default (.clflushopt ⟨[.opSize, .repne], none⟩ atRax) = true ∧
    undefinedOpcode { Config.default with hasClwb := false } (.clwb (px1 .opSize) atRax) = true ∧
    (undefinedOpcode Config.default (.lfence (px1 .lock) 0#3) = true ∧ fencePrefixPresent (px1 .lock) = false) ∧
    undefinedOpcode { Config.default with hasSse2 := false } (.mfence np 0#3) = true ∧
    undefinedOpcode { Config.default with hasSse := false } (.sfence np 0#3) = true := by decide
/-- Both clauses. -/
theorem witness_FencesRaiseUndefinedOpcodeOnly :
    memoryForm (.mfence np 0#3) = none ∧
    (withProc proc64).procs[(withProc proc64).cur]? = some proc64 ∧
    (undefinedOpcode Config.default (.mfence (px1 .lock) 0#3) = true ∧
      first (exec (.mfence (px1 .lock) 0#3) (withProc proc64)) (fun y => y.ended != none) = true) ∧
    (undefinedOpcode Config.default (.mfence np 0#3) = false ∧
      first (exec (.mfence np 0#3) (withProc proc64)) (fun y => y.ended == none) = true) := by decide

/-- The memory form the mode statements are shown with. -/
theorem witness_memoryForm :
    memoryForm (.clflush np atRax) = some (np, atRax) ∧
    memoryForm (.clflush (px1 .addrSize) atRax) = some (px1 .addrSize, atRax) ∧
    memoryForm (.clwb (px1 .opSize) atRax) = some (px1 .opSize, atRax) ∧
    undefinedOpcode Config.default (.clflush np atRax) = false ∧
    undefinedOpcode Config.default (.clflush (px1 .addrSize) atRax) = false ∧
    undefinedOpcode Config.default (.clflush (px1 .lock) atRax) = true := by decide
/-- #UD; effective addresses FFFFH and 10000H. -/
theorem witness_RealModeExceptions :
    procReal.mode = .realAddress ∧
    first (exec (.clflush (px1 .lock) atRax) (withProc procReal)) (fun y => y.ended.isSome) = true ∧
    first (exec (.clflush (px1 .addrSize) atRax) (withProc (procReal.setReg .rax 0xFFFF#64)))
      (fun y => y.ended == none) = true ∧
    first (exec (.clflush (px1 .addrSize) atRax) (withProc (procReal.setReg .rax 0x10000#64)))
      (fun y => y.ended.isSome) = true := by decide

/-- The processor in virtual-8086 mode. -/
def proc86 : Proc := { proc64 with mode := .virtual8086, cpl := 3#2 }
/-- #UD; effective addresses 10000H, FFFFH with a page, FFFFH without. -/
theorem witness_Virtual8086Exceptions :
    first (exec (.clflush (px1 .lock) atRax) (withProc proc86)) (fun y => y.ended.isSome) = true ∧
    first (exec (.clflush (px1 .addrSize) atRax) (withProc (proc86.setReg .rax 0x10000#64)))
      (fun y => y.ended.isSome) = true ∧
    first (exec (.clflush (px1 .addrSize) atRax) (paged (proc86.setReg .rax 0xFEFF#64) (lowPage true true true)))
      (fun y => y.ended == none) = true ∧
    endedAs (exec (.clflush (px1 .addrSize) atRax) (paged (proc86.setReg .rax 0xFFFF#64) (lowPage true true true)))
      .pf none = true := by decide

/-- The processor in protected mode with a limit of FFFH in DS and SS. -/
def procLimit (rax rbp : W64) : Proc :=
  let x := (proc32.setReg .rax rax).setReg .rbp rbp
  { x with segs := { x.segs with ds := { flat with limit := 0xFFF#32 }, ss := { flat with limit := 0xFFF#32 } } }
/-- #UD; the last byte of DS and the next; the next of SS; a page fault. -/
theorem witness_ProtectedModeExceptions :
    first (exec (.clflush (px1 .lock) atRax) (withProc proc32)) (fun y => y.ended.isSome) = true ∧
    first (exec (.clflush np atRax) (withProc (procLimit 0xFFF#64 0#64))) (fun y => y.ended == none) = true ∧
    endedAs (exec (.clflush np atRax) (withProc (procLimit 0x1000#64 0#64))) .gp (some 0#32) = true ∧
    endedAs (exec (.clflush np ⟨1#2, 5#3, none, .d8 0#8⟩) (withProc (procLimit 0#64 0x1000#64))) .ss (some 0#32) =
      true ∧
    endedAs (exec (.clflush np atRax) (paged proc32 (lowPage false true true))) .pf none = true := by decide
theorem witness_CompatibilityModeAsProtected :
    proc32.mode = .protectedMode ∧
    endedAs (exec (.clflush np atRax) (withProc (procLimit 0x1000#64 0#64))) .gp (some 0#32) = true ∧
    endedAs (exec (.clflush np atRax)
      (State.setProc (withProc (procLimit 0x1000#64 0#64)) 0
        { procLimit 0x1000#64 0#64 with mode := .compatibility })) .gp (some 0#32) = true := by decide
/-- #UD; the last canonical address and the first that is not, through DS and SS; a page fault. -/
theorem witness_LongModeExceptions :
    first (exec (.clflush (px1 .lock) atRax) (withProc proc64)) (fun y => y.ended.isSome) = true ∧
    first (exec (.clflush np atRax) (withProc lastByte)) (fun y => y.ended == none) = true ∧
    canonical Config.default 0x7FFFFFFFFFFF#64 = true ∧ canonical Config.default 0x800000000000#64 = false ∧
    canonical Config.default 0xFFFF7FFFFFFFFFFF#64 = false ∧ canonical Config.default 0xFFFF800000000000#64 = true ∧
    endedAs (exec (.clflush np atRax) (withProc (proc64.setReg .rax 0x800000000000#64))) .gp (some 0#32) = true ∧
    endedAs (exec (.clflush np ⟨1#2, 5#3, none, .d8 0#8⟩) (withProc (proc64.setReg .rbp 0xFFFF7FFFFFFFFFFF#64)))
      .ss (some 0#32) = true ∧
    endedAs (exec (.clflush np atRax) (paged proc64 (lowPage false true true))) .pf none = true := by decide

/-! ### Steps and reset -/

/-- A processor at the reset vector with SFENCE there. -/
theorem witness_StepRunsDecodedInstruction :
    let s := State.reset.withFetchWord 24 0x0FAEF8
    let u : State := { s with agenda := [], tick := 1 }
    let x := (Proc.atReset 0#32 true).clearAt
    chooseMove s = (.exec 0, u) ∧
    (u.procs[0]? = some x ∧ x.activity = .running ∧ x.ended = none ∧ x.refusal = none ∧ stopped u 0 = false ∧
      heldBySibling u 0 x = false) ∧
    x.program = [] ∧
    decode x.decodeEnv (fetchBytes { u with cur := 0 } 0 x 0 15).1 = .ok (.sfence np 0#3) (List.replicate 12 0#8) ∧
    (x.mode ≠ .mode64 ∧ x.pc.toNat + 3 < 2 ^ 32 ∧ (x.pc - x.segs.cs.base).toNat % 2 ^ 32 + 3 < 2 ^ 32) := by decide
/-- Both clauses on p. -/
theorem witness_ResetStartsTheBspAlone :
    (State.resetWith Config.default).procs[0]? = some (Proc.atReset 0#32 true) ∧ 0 = Config.default.bspIndex ∧
    (State.resetWith Config.default).procs[1]? = some (Proc.atReset 1#32 false) ∧ 1 ≠ Config.default.bspIndex := by
  decide
theorem witness_StepKeepsTheInvariant :
    (State.reset.withFetchWord 24 0x0FAEF8).Inv ∧
    after (step (State.reset.withFetchWord 24 0x0FAEF8)) (fun _ => true) = true :=
  ⟨inv_of_equal (by decide) (by decide) (by decide), by decide⟩
theorem witness_StepKeepsTheProcessors :
    (State.reset.withFetchWord 24 0x0FAEF8).Populated ∧
    after (step (State.reset.withFetchWord 24 0x0FAEF8)) (fun _ => true) = true := by
  exact ⟨rfl, by decide⟩
/-- A processor that is not Running, one whose run has ended, one that was refused, and one that is stopped. -/
theorem witness_IdleProcessorsExecuteNothing :
    State.reset.procs[1]? = some (Proc.atReset 1#32 false) ∧ (Proc.atReset 1#32 false).activity ≠ .running ∧
    (withProc { proc64 with ended := some ⟨.ud, none, 0#64⟩ }).procs[0]? =
      some { proc64 with ended := some ⟨.ud, none, 0#64⟩ } ∧
    (withProc { proc64 with refusal := some .fencePrefix }).procs[0]? =
      some { proc64 with refusal := some .fencePrefix } ∧
    stopped { withProc proc64 with pins := [⟨true, false, false, false, false⟩] } 0 = true := by decide

/-! ### The queue -/

/-- The last byte before, in and after a line, both ways of the two equivalences. -/
theorem witness_BlockingTable :
    blocks Config.default (.w 0xFFF 1 0#64) (.co 0x1000) = false ∧
    blocks Config.default (.w 0xFFF 2 0#64) (.co 0x1000) = true ∧
    blocks Config.default (.w 0x103F 1 0#64) (.cw 0x1000) = true ∧
    blocks Config.default (.w 0x1040 1 0#64) (.cw 0x1000) = false := by decide
/-- Each clause: the entry right behind the marker, the marker with one entry ahead. -/
theorem witness_SfenceSeparates :
    ([QEntry.co 0] : List QEntry).length < 2 ∧ ([QEntry.co 0] : List QEntry) ≠ [] ∧
    mayPerform Config.default [.co 0, .sf, .co 0x40] 2 = false ∧
    mayPerform Config.default [.co 0, .sf, .co 0x40] 1 = false ∧
    mayPerform Config.default [.co 0, .sf, .co 0x40] 0 = true := by decide
/-- Each disjunct: a CLFLUSH behind a write, and a CLWB behind a write of the last byte of its line. -/
theorem witness_WritesAndFlushesInOrder :
    let q : List QEntry := [.w 0x103F 1 0#64, .cf 0x2000, .cw 0x1000]
    q[0]? = some (.w 0x103F 1 0#64) ∧ q[1]? = some (.cf 0x2000) ∧ q[2]? = some (.cw 0x1000) ∧
    0x1000 ≤ 0x103F + 0 ∧ 0x103F + 0 < 0x1000 + Config.default.line := by decide
/-- A doubleword of which the newest of two writes gives the first byte, the older the second, Coh the rest. -/
def loading : Proc :=
  { proc64 with queue := [.w 0x1000 2 0xBBAA#64, .w 0x1000 1 0xCC#64, .sf] }
theorem witness_LoadForwardsTheNewestWrite :
    let s : State := { withProc loading with coh := [(0x1003, 0xDD#8)] }
    (s.procs[0]? = some loading ∧ s.busLock = none ∧ ucPending s.cfg loading = false ∧
      accessStop s.cfg [0x1000, 0x1001, 0x1002, 0x1003] = none ∧
      oneEvent s.cfg [0x1000, 0x1001, 0x1002, 0x1003] = true ∧
      translateBytes s 0 loading .read (loading.linearOf ⟨none, 0x1000#64⟩) 4 =
        .ok [0x1000, 0x1001, 0x1002, 0x1003] [] ∧
      translateBytes s 0 loading .write (loading.linearOf ⟨none, 0x1000#64⟩) 4 =
        .ok [0x1000, 0x1001, 0x1002, 0x1003] [] ∧
      touchesUc s.cfg [0x1000, 0x1001, 0x1002, 0x1003] = false ∧
      (∀ pa ∈ [0x1000, 0x1001, 0x1002, 0x1003], inApicPage pa = false)) ∧
    List.Forall₂ (s.NewestByte loading) [0x1000, 0x1001, 0x1002, 0x1003] [0xCC#8, 0xBB#8, 0#8, 0xDD#8] :=
  ⟨by decide, .cons (.inl ⟨[.w 0x1000 2 0xBBAA#64], [.sf], 0x1000, 1, 0xCC#64, by decide, by decide, by decide, by decide,
      by decide⟩)
    (.cons (.inl ⟨[], [.w 0x1000 1 0xCC#64, .sf], 0x1000, 2, 0xBBAA#64, by decide, by decide, by decide, by decide,
      by decide⟩)
    (.cons (.inr ⟨by decide, by decide⟩) (.cons (.inr ⟨by decide, by decide⟩) .nil)))⟩
/-- A write across a line boundary; the bytes before and after it and the line beside it are the other clauses. -/
def writing : Proc := { proc64 with queue := [.w 0x103F 2 0xBBAA#64] }
theorem witness_PerformedWriteReachesCoh :
    (withProc writing).Canonical ∧ (withProc writing).procs[0]? = some writing ∧
    writing.queue[0]? = some (.w 0x103F 2 0xBBAA#64) ∧
    mayPerform (withProc writing).cfg writing.queue 0 = true ∧ (withProc writing).busLock = none ∧
    (∀ k, k < 2 → memType (withProc writing).cfg (0x103F + k) = .wb) ∧
    after (doEvent (withProc writing) (.perform 0 0)) (fun t =>
      t.coh == [(0x103F, 0xAA#8), (0x1040, 0xBB#8)] &&
        t.lines == [(0x1000, .modified), (0x1040, .modified)]) = true :=
  ⟨⟨by decide, by decide, by decide⟩, by decide, by decide, by decide, by decide, by decide, by decide⟩
/-- Memory of types UC and WT; the first byte is the last before the local APIC page in the second write. -/
theorem witness_UncachedWriteReachesMem :
    let x : Proc := { proc64 with queue := [.w 0x100F 2 0xBBAA#64] }
    let s : State := { withProc x with
      cfg := { Config.default with memTypes := [⟨0x1000, 0x10, .uc⟩, ⟨0x1010, 0x10, .wt⟩] } }
    s.Canonical ∧ s.procs[0]? = some x ∧ x.queue[0]? = some (.w 0x100F 2 0xBBAA#64) ∧
    mayPerform s.cfg x.queue 0 = true ∧ s.busLock = none ∧
    (∀ k, k < 2 → memType s.cfg (0x100F + k) = .uc ∨ memType s.cfg (0x100F + k) = .wt) ∧
    touchesApic 0x100F 2 = false ∧ touchesApic 0xFEDFFFFF 1 = false :=
  ⟨⟨by decide, by decide, by decide⟩, by decide, by decide, by decide, by decide, by decide, by decide, by decide⟩

/-- Processor 1 waits on the line at 1000H. -/
def watching : State := { withProc proc64 with
  procs := [proc64, { proc64 with monitor := .armed 0x1000 64, activity := .mwaitWait }] }
/-- A write of the last monitored byte triggers; one of the next byte does not. -/
theorem witness_WriteTriggersOtherMonitors :
    watching.procs[1]? = some { proc64 with monitor := .armed 0x1000 64, activity := .mwaitWait } ∧
    (memType watching.cfg (0x103F + 0) = .wb ∧ 0x1000 ≤ 0x103F + 0 ∧ 0x103F + 0 < 0x1000 + 64) ∧
    ¬ (0x1040 + 0 < 0x1000 + 64) ∧
    ((performWrite watching 0 (cellsOf 0x103F 1 1#64)).procs.map (·.monitor)) = [.triggered, .triggered] ∧
    ((performWrite watching 0 (cellsOf 0x1040 1 1#64)).procs.map (·.monitor)) =
      [.triggered, .armed 0x1000 64] := by decide
/-- A dirty line with an entry of it in the queue, behind a CLWB of another line. -/
def dirtyWith (e : QEntry) : State := { dirtyLine with procs := [{ proc64 with queue := [.cw 0x2000, e] }, proc64] }
theorem dirtyWith_inv (e : QEntry) : (dirtyWith e).Inv :=
  ⟨⟨(dirtyLine_inv).canonical.coh, (dirtyLine_inv).canonical.mem, (dirtyLine_inv).canonical.lines⟩,
    dirtyLine_inv.coherent⟩
theorem witness_FlushPerformed :
    ((dirtyWith (.cf 0x1000)).Inv ∧ (dirtyWith (.co 0x1000)).Inv) ∧ lineOf Config.default 0x103F = 0x1000 ∧
    mayPerform Config.default [.cw 0x2000, .cf 0x1000] 1 = true ∧
    mayPerform Config.default [.cw 0x2000, .co 0x1000] 1 = true ∧ dirtyLine.busLock = none ∧
    dirtyLine.lineState 0x1000 = .modified :=
  ⟨⟨dirtyWith_inv _, dirtyWith_inv _⟩, by decide⟩
/-- On a Modified line, and on one that is Invalid. -/
theorem witness_ClwbPerformed :
    (dirtyWith (.cw 0x1000)).Inv ∧ lineOf Config.default 0x103F = 0x1000 ∧ lineOf Config.default 0x2000 = 0x2000 ∧
    mayPerform Config.default [.cw 0x2000, .cw 0x1000] 1 = true ∧
    mayPerform Config.default [.cw 0x2000, .cw 0x1000] 0 = true ∧ dirtyLine.busLock = none ∧
    dirtyLine.lineState 0x1000 = .modified ∧ dirtyLine.lineState 0x2000 = .invalid :=
  ⟨dirtyWith_inv _, by decide⟩
/-- A write, a CLFLUSHOPT of its line and an SFENCE, all performed. -/
def persisting : Proc := { proc64 with queue := [.w 0x1000 1 0xAA#64, .co 0x1000, .sf] }
theorem witness_FlushAndFencePersist :
    (withProc persisting).Inv ∧ (withProc persisting).procs[0]? = some persisting ∧
    persisting.queue = .w 0x1000 1 0xAA#64 :: .co (lineOf (withProc persisting).cfg 0x1000) :: .sf :: [] ∧
    (∀ k, k < 1 → memType (withProc persisting).cfg (0x1000 + k) = .wb) ∧
    (withProc persisting).procs[1]? = some proc64 ∧ proc64.queue = [] ∧
    ([Event.perform 0 0, .fill 0x1000, .perform 0 0, .perform 0 0].all (·.ofMemory)) = true ∧
    ((runEvents (withProc persisting) [.perform 0 0, .fill 0x1000, .perform 0 0, .perform 0 0]).map fun t =>
      (t.mem, t.procs.map (·.queue))) = some ([(0x1000, 0xAA#8)], [[], []]) :=
  ⟨inv_of_equal (by decide) (by decide) rfl, by decide, by decide, by decide, by decide, by decide, by decide,
    by decide⟩
/-- A fill, an eviction and a write-back that each do something. -/
theorem witness_SpontaneousStepsAreInvisible :
    after (doEvent (withProc proc64) (.fill 0x103F)) (fun t => t.lines == [(0x1000, .clean)]) = true ∧
    after (doEvent { withProc proc64 with lines := [(0x1000, .clean)] } (.evict 0x103F)) (fun t => t.lines == []) =
      true ∧
    after (doEvent dirtyLine (.writeBack 0x103F false))
      (fun t => t.lines == [(0x1000, .clean)] && t.mem == [(0x1008, 0xAA#8)]) = true := by decide

/-! ### The referenced instructions -/

/-- The last doubleword before the local APIC page. -/
theorem witness_XchgIsOneVisibleStep :
    let pas := [0xFEDFFFFC, 0xFEDFFFFD, 0xFEDFFFFE, 0xFEDFFFFF]
    (withProc proc64).Canonical ∧ (withProc proc64).procs[0]? = some proc64 ∧ proc64.queue = [] ∧
    (withProc proc64).busLock = none ∧
    translateBytes (withProc proc64) 0 proc64 .write (proc64.linearOf ⟨none, 0xFEDFFFFC#64⟩) 4 = .ok pas [] ∧
    (∀ pa ∈ pas, pa < 2 ^ Config.default.paBits ∧ isBacked Config.default pa = true ∧ inApicPage pa = false ∧
      memType Config.default pa ≠ .wc) :=
  ⟨⟨by decide, by decide, by decide⟩, by decide, by decide, by decide, by decide, by decide⟩
theorem witness_SerializingStepsWait :
    AbsStep.cpuid.isSerializing = true ∧ AbsStep.cpuid.coreWide busy = false ∧
    AbsStep.wbinvd.isSerializing = true ∧ AbsStep.wbinvd.coreWide busy = true ∧ busy.queue ≠ [] ∧
    AbsStep.wbinvd.isPrivileged = true ∧ busy.cpl = 0#2 := by decide
theorem witness_PrivilegedStepsFault :
    AbsStep.wbinvd.isPrivileged = true ∧ ({ proc64 with cpl := 1#2 } : Proc).cpl ≠ 0#2 := by decide
/-- The dirty line with both queues empty. -/
def dirtyIdle : State := { dirtyLine with procs := [proc64, proc64] }
theorem dirtyIdle_inv : dirtyIdle.Inv := ⟨⟨by decide, by decide, by decide⟩, dirtyLine_inv.coherent⟩
theorem witness_WbinvdWritesEverythingBack :
    dirtyIdle.Inv ∧ dirtyIdle.procs[0]? = some proc64 ∧ proc64.cpl = 0#2 ∧ proc64.queue = [] ∧
    (dirtyIdle.procs.all fun z => z.queue.isEmpty) = true ∧
    after (execStep .wbinvd 2 0 proc64 dirtyIdle) (fun t => t.mem == [(0x1008, 0xAA#8)] && t.lines == []) = true :=
  ⟨dirtyIdle_inv, by decide, by decide, by decide, by decide, by decide⟩
theorem witness_InvdLosesModifiedData :
    dirtyIdle.Inv ∧ dirtyIdle.procs[0]? = some proc64 ∧ proc64.cpl = 0#2 ∧ proc64.queue = [] ∧
    (dirtyIdle.procs.all fun z => z.queue.isEmpty) = true :=
  ⟨dirtyIdle_inv, by decide, by decide, by decide, by decide⟩
theorem witness_MovCr3KeepsGlobalTranslations :
    (withProc proc64).procs[0]? = some proc64 ∧ proc64.cpl = 0#2 ∧ proc64.queue = [] := by decide
/-- Both kinds of leaf; the values of leaf 0 stand in the registers afterwards. -/
theorem witness_CpuidWritesFourRegisters :
    (withProc proc64).procs[0]? = some proc64 ∧ proc64.queue = [] ∧ (proc64.reg .rax).setWidth 32 ≠ 5#32 ∧
    ((proc64.setReg .rax 5#64).reg .rax).setWidth 32 = 5#32 ∧
    first (execStep .cpuid 2 0 proc64 (withProc proc64))
      (fun y => y.reg .rax == 0x1F#64 && y.reg .rbx == 0x756E6547#64) = true := by decide
/-- The smallest and the largest line size of the first clause. -/
theorem witness_CpuidReportsParameters :
    let least : Config := { Config.default with lineLog2 := 3 }
    let largest : Config := { Config.default with lineLog2 := 10 }
    (8 ≤ least.line ∧ least.line ≤ 1024 ∧ least.line = 8) ∧
    (8 ≤ largest.line ∧ largest.line ≤ 1024 ∧ largest.line = 1024) := by decide
/-- All clauses on the MSR. -/
theorem witness_MsrReadsBack :
    (withProc proc64).procs[0]? = some proc64 ∧ Msr.apicBase.isX2apic = false ∧ Msr.pat.isX2apic = false ∧
    Msr.pat ≠ .apicBase ∧ (Msr.lbr 0).isX2apic = false ∧ (Msr.lbr 1).isX2apic = false := by decide
theorem witness_MsrReadsBack_pat : ∀ n, Msr.pat ≠ .lbr n := by simp
/-- Two processors of one core, of two, and of core 0 of two packages. -/
theorem witness_MtrrsAreSharedByTheCore :
    coreOf Config.default 1 = coreOf Config.default 0 ∧
    coreOf { Config.default with procs := [⟨0, 0, 0⟩, ⟨1, 1, 0⟩] } 1 ≠
      coreOf { Config.default with procs := [⟨0, 0, 0⟩, ⟨1, 1, 0⟩] } 0 ∧
    coreOf { Config.default with procs := [⟨0, 0, 0⟩, ⟨2, 0, 1⟩] } 1 ≠
      coreOf { Config.default with procs := [⟨0, 0, 0⟩, ⟨2, 0, 1⟩] } 0 := by decide
/-- Both clauses, at CPL 0 and at CPL 3 where the system allows it. -/
theorem witness_MwaitWaitsOnAnArmedMonitor :
    Config.default.hasMonitor = true ∧ proc64.cpl = 0#2 ∧ proc64.monitor = .triggered ∧
    ({ proc64 with monitor := .armed 0x1000 64 } : Proc).monitor = .armed 0x1000 64 ∧
    ({ Config.default with monitorAtCpl3 := true } : Config).monitorAtCpl3 = true := by decide

/-! ### Interrupts, messages and errors -/

/-- IF = 0, and IF = 1 with each of the three events. -/
theorem witness_HaltedProcessorsWake :
    let x : Proc := { proc64 with activity := .halted }
    let y : Proc := { x with eflags := ⟨true, false, 0#64⟩ }
    ((withProc x).procs[0]? = some x ∧ x.activity = .halted ∧ x.eflags.ifFlag = false ∧
      stopped (withProc x) 0 = false ∧ (withProc x).busLock = none) ∧
    ((withProc y).procs[0]? = some y ∧ y.activity = .halted ∧ y.eflags.ifFlag = true ∧
      stopped (withProc y) 0 = false ∧ (withProc y).busLock = none) ∧
    ([Event.nmi 0, .smi 0, .interrupt 0 0x20#8].all fun e =>
      first (doEvent (withProc y) e) fun z => z.activity == .running && z.handlers == [0x400000#64]) = true := by
  decide
theorem witness_IretReturnsToTheSavedPc :
    let x : Proc := { proc64 with handlers := [0x1234#64] }
    x.queue = [] ∧ x.handlers = 0x1234#64 :: [] ∧ (withProc x).procs[0]? = some x := by decide
/-- The reset state with a message for each processor. -/
def messaged (k : IpiKind) : State := { State.reset with ipis := [⟨some 1, k⟩] }
/-- Each clause: an AP and a BSP that take INIT, a processor in `Shutdown`, STPCLK# asserted; INIT and the first and
last SIPI delivered to a waiting processor, and a SIPI to a Running one. -/
theorem witness_InitAndSipi :
    let ap := Proc.atReset 1#32 false
    (State.reset.procs[1]? = some ap ∧ stopped State.reset 1 = false ∧ ap.canTake .init = true ∧ ap.bspFlag = false) ∧
    ((Proc.atReset 0#32 true).canTake .init = true ∧ (Proc.atReset 0#32 true).bspFlag = true) ∧
    ({ proc64 with activity := .shutdown } : Proc).canTake .init = false ∧
    stopped { withProc proc64 with pins := [⟨true, false, false, false, false⟩] } 0 = true ∧
    nextMessage (messaged .init) 1 ap = some ⟨some 1, .init⟩ ∧
    nextMessage (messaged (.sipi 0#8)) 1 ap = some ⟨some 1, .sipi 0#8⟩ ∧ ap.activity = .waitForSipi ∧
    nextMessage (messaged (.sipi 0xFF#8)) 1 proc64 = some ⟨some 1, .sipi 0xFF#8⟩ ∧
    proc64.activity ≠ .waitForSipi ∧
    after (doEvent (messaged (.sipi 0xFF#8)) (.deliver 1))
      (fun t => t.procs.map (·.pc) == [0xFFFFFFF0#64, 0xFF000#64] && t.ipis == []) = true := by decide
/-- Both values, the second with the last vector. -/
theorem witness_IcrBroadcasts :
    let x : Proc := { proc64 with queue := [.w 0xFEE00300 4 0xC4500#64] }
    let y : Proc := { proc64 with queue := [.w 0xFEE00300 4 (0xC4600#64 + (0xFF#8).setWidth 64)] }
    ((withProc x).procs[0]? = some x ∧ x.x2apic = false ∧ x.queue[0]? = some (.w 0xFEE00300 4 0xC4500#64) ∧
      mayPerform (withProc x).cfg x.queue 0 = true ∧ (withProc x).busLock = none) ∧
    (y.queue[0]? = some (.w 0xFEE00300 4 (0xC4600#64 + (0xFF#8).setWidth 64)) ∧
      mayPerform (withProc y).cfg y.queue 0 = true) ∧
    after (doEvent (withProc x) (.perform 0 0)) (fun t => t.ipis == [⟨some 1, .init⟩]) = true ∧
    after (doEvent (withProc y) (.perform 0 0)) (fun t => t.ipis == [⟨some 1, .sipi 0xFF#8⟩]) = true := by decide
/-- CR4.MCE clear and set in the package, and another package. -/
theorem witness_MachineCheckOutcome :
    let y : Proc := { proc64 with cr4 := ⟨true, 0#64⟩ }
    ((withProc proc64).procs[0]? = some proc64 ∧ proc64.activity ≠ .shutdown ∧ proc64.ended = none ∧
      packageOf (withProc proc64).cfg 0 = 0 ∧ proc64.cr4.mce = false ∧
      (withProc proc64).pins[0]? = some ⟨false, false, false, false, false⟩) ∧
    ((withProc y).procs[0]? = some y ∧ y.activity ≠ .shutdown ∧ y.ended = none ∧ y.cr4.mce = true) ∧
    packageOf (withProc proc64).cfg 0 ≠ 1 := by decide

/-! ### Topology -/

theorem witness_FindMaskWidthIsLeast :
    (2 ≤ (2#32).toNat ∧ (2#32).toNat ≤ 65536) ∧ (2 ≤ (65536#32).toNat ∧ (65536#32).toNat ≤ 65536) := by decide
theorem witness_TopologyMasksPartitionTheId :
    topoMasks [⟨1#8, 0#5⟩, ⟨2#8, 31#5⟩] = some ⟨0#32, 0x7FFFFFFF#32, 0x80000000#32⟩ ∧
    (validLevels [⟨1#8, 0#5⟩, ⟨2#8, 31#5⟩]).Pairwise (fun a b => a.shift.toNat ≤ b.shift.toNat) := by decide

end Sys2Proof.Tests
end

section
/-! O28: what a step can do to the parameters, to the number of processors, and to Coh, Mem and St. Each operation of
the model is shown once to be a chain of the moves of `State.Change`; what these keep, every step keeps. -/

namespace Sys2Proof.Machine

open Sys2Proof

section

variable {s t : State} {o : Out} {p len n : Nat} {x : Proc}

/-! ## The moves every step is made of -/

/-- The moves of the memory part of a state (R140, R141, R145, R253, R254), RESET (R354), and anything that leaves that
part and the number of processors as they are; and chains of these. -/
inductive State.Change : State → State → Prop where
  | rest {s t : State} (memory : s.SameMemory t) (count : t.procs.length = s.procs.length) : Change s t
  | byte (s : State) (p a : Nat) (b : Byte) : Change s (performByte s p a b)
  | line {s : State} (l : Nat) (v : LineState) (h : s.lineState l ≠ .modified) : Change s (s.setLine l v)
  | writeBack (s : State) (l : Nat) : Change s (writeBackLine s l)
  | flush (s : State) (l : Nat) : Change s (flushLine s l)
  | drop (s : State) (l : Nat) : Change s (dropLine s l)
  | reset {s t : State} (cfg : t.cfg = s.cfg) (count : t.procs.length = s.cfg.nproc) (coh : t.coh = s.mem)
      (mem : t.mem = s.mem) (lines : t.lines = []) : Change s t
  | trans {s t u : State} (first : Change s t) (second : Change t u) : Change s u

theorem performByte_procs_length (s : State) (p a : Nat) (b : Byte) :
    (performByte s p a b).procs.length = s.procs.length := by
  unfold performByte
  split <;> simp [noteStale]

/-- The parameters and the number of processors are kept (R8, R20). -/
theorem State.Change.populated (h : s.Change t) (hp : s.Populated) : t.cfg = s.cfg ∧ t.Populated := by
  induction h with
  | rest memory count => exact ⟨memory.cfg, by rw [State.Populated, count, memory.cfg]; exact hp⟩
  | byte s p a b =>
    exact ⟨performByte_cfg s p a b, by rw [State.Populated, performByte_procs_length, performByte_cfg]; exact hp⟩
  | line l v _ => exact ⟨rfl, hp⟩
  | writeBack s l =>
    exact ⟨writeBackLine_cfg s l, by rw [State.Populated, writeBackLine_procs, writeBackLine_cfg]; exact hp⟩
  | flush s l => exact ⟨flushLine_cfg s l, by rw [State.Populated, flushLine_procs, flushLine_cfg]; exact hp⟩
  | drop s l => exact ⟨dropLine_cfg s l, by rw [State.Populated, dropLine_procs, dropLine_cfg]; exact hp⟩
  | reset cfg count _ _ _ => exact ⟨cfg, by rw [State.Populated, count, cfg]⟩
  | trans _ _ first second =>
    obtain ⟨hc, ht⟩ := first hp
    obtain ⟨hc', hu⟩ := second ht
    exact ⟨hc'.trans hc, hu⟩

/-- The invariant of the memory is kept (R140). -/
theorem State.Change.inv (h : s.Change t) (hi : s.Inv) : t.Inv := by
  induction h with
  | rest memory _ => exact memory.inv hi
  | byte s p a b => exact performByte_inv hi p a b
  | line l v h => exact setLine_inv hi l v (.inr h)
  | writeBack s l => exact writeBackLine_inv hi l
  | flush s l => exact flushLine_inv hi l
  | drop s l => exact dropLine_inv hi l
  | reset _ _ coh mem lines =>
    exact ⟨⟨coh ▸ hi.canonical.mem, mem ▸ hi.canonical.mem, lines ▸ rfl⟩, fun a _ => by rw [coh, mem]⟩
  | trans _ _ first second => exact second (first hi)

/-! ## Updates of the state -/

theorem State.Change.refl (s : State) : s.Change s := .rest (.refl s) rfl

theorem State.Change.setProc (h : s.Change t) (p : Nat) (x : Proc) : s.Change (t.setProc p x) :=
  h.trans (.rest (setProc_sameMemory t p x) (by simp))

theorem State.Change.updProc (h : s.Change t) (p : Nat) (f : Proc → Proc) : s.Change (t.updProc p f) :=
  h.trans (.rest (updProc_sameMemory t p f) (by simp))

theorem withTables_change (s : State) (ts : List AddrSpace) : s.Change { s with tables := ts } :=
  .rest ⟨rfl, rfl, rfl, rfl⟩ rfl

theorem raise_change (h : s.Change t) (p : Nat) (x : Proc) (k : ExcKind) (c : Option W32) :
    s.Change (raise t p x k c) := h.setProc p _

theorem foldl_change {α : Type} {f : State → α → State} (hf : ∀ (t : State) (a : α), t.Change (f t a)) (l : List α) (s : State) :
    s.Change (l.foldl f s) := by
  induction l generalizing s with
  | nil => exact .refl s
  | cons a l ih => exact (hf s a).trans (ih (f s a))

/-! ## Performing (R145) -/

theorem flushMonitors_change (s : State) (l : Nat) : s.Change (flushMonitors s l) :=
  .rest (flushMonitors_sameMemory s l) (by simp [flushMonitors])

theorem performFlush_change (s : State) (l : Nat) : s.Change (performFlush s l) :=
  (State.Change.flush s l).trans (flushMonitors_change _ l)

/-- A CLWB that drops its line flushes it. -/
theorem performClwb_change (s : State) (l : Nat) : s.Change (performClwb s l) := by
  refine .trans ?_ (flushMonitors_change _ l)
  split
  · exact .flush s l
  · exact .writeBack s l

theorem performBytes_change (s : State) (p : Nat) (cells : List Host.Cell) : s.Change (performBytes s p cells) := by
  induction cells generalizing s with
  | nil => exact .refl s
  | cons c cells ih => exact (State.Change.byte s p c.1 c.2).trans (ih _)

theorem triggerMonitors_change (s : State) (p : Nat) (addrs : List Nat) : s.Change (triggerMonitors s p addrs) :=
  .rest (triggerMonitors_sameMemory s p addrs) (by simp [triggerMonitors])

theorem performWrite_change (s : State) (p : Nat) (cells : List Host.Cell) : s.Change (performWrite s p cells) :=
  (performBytes_change s p cells).trans (triggerMonitors_change _ p _)

theorem apicStore_change (s : State) (p : Nat) (r : ApicReg) (v : W32) : s.Change (apicStore s p r v) := by
  refine .rest (apicStore_sameMemory s p r v) ?_
  unfold apicStore
  split <;> simp [sendIpi, sendTo]

theorem apicOtherStore_change (s : State) (p : Nat) (pas : List Nat) : s.Change (apicOtherStore s p pas) := by
  refine .rest (apicOtherStore_sameMemory s p pas) ?_
  unfold apicOtherStore
  dsimp only
  split
  · split <;> simp [sendIpi, sendTo]
  · simp

theorem writeData_change (s : State) (p : Nat) (cells : List Host.Cell) : s.Change (writeData s p cells) := by
  rcases writeData_cases s p cells with ⟨r, v, e⟩ | ⟨pas, inner, e⟩ | e
  · exact e ▸ apicStore_change s p r v
  · exact e ▸ (performWrite_change s p inner).trans (apicOtherStore_change _ p pas)
  · exact e ▸ performWrite_change s p cells

theorem performEntry_change (s : State) (p : Nat) (e : QEntry) : s.Change (performEntry s p e) := by
  rcases performEntry_cases s p e with ⟨cells, h⟩ | ⟨l, h⟩ | ⟨l, h⟩ | h
  · exact h ▸ writeData_change s p cells
  · exact h ▸ performFlush_change s l
  · exact h ▸ performClwb_change s l
  · rw [h]; exact .refl s

theorem writeX2apic_change (s : State) (p : Nat) (k : Fin 62) (v : W64) : s.Change (writeX2apic s p k v) := by
  refine .rest (writeX2apic_sameMemory s p k v) ?_
  unfold writeX2apic
  split
  · rfl
  · dsimp only
    split
    · split <;> simp [sendTo, storeMsr]
    · simp [storeMsr]

theorem writeMsr_change (s : State) (p : Nat) (m : Msr) (v : W64) : s.Change (writeMsr s p m v) := by
  cases m with
  | x2apic k => exact writeX2apic_change s p k v
  | _ => exact .rest (writeMsr_sameMemory s p _ v) (by simp [writeMsr, storeMsr])

/-! ## Outcomes -/

/-- Every next state an outcome holds is one that s changes into. -/
def State.Leads (s : State) (o : Out) : Prop := ∀ u, o = .next u → s.Change u

theorem State.Change.leads (h : s.Change t) (ho : t.Leads o) : s.Leads o := fun u hu => h.trans (ho u hu)

theorem leads_next (h : s.Change t) : s.Leads (.next t) := by
  rintro u ⟨⟩
  exact h

theorem leads_refused (s : State) (r : Refusal) : s.Leads (.refused r) := by
  intro u h
  cases h

theorem leads_fault (s : State) (f : Fault) : s.Leads (.fault f) := by
  intro u h
  cases h

theorem leads_self (s : State) : s.Leads (.next s) := leads_next (.refl s)

theorem leads_setProc (s : State) (p : Nat) (x : Proc) : s.Leads (.next (s.setProc p x)) :=
  leads_next ((State.Change.refl s).setProc p x)

theorem leads_raise (s : State) (p : Nat) (x : Proc) (k : ExcKind) (c : Option W32) :
    s.Leads (.next (raise s p x k c)) := leads_setProc s p _

/-! ## Shared operations: each answers a wait, an exception, or what it goes on with -/

theorem privileged_leads (ho : s.Leads o) : s.Leads (privileged p x s o) := by
  intro u h
  rcases privileged_next h with ⟨_, rfl⟩ | ⟨_, h⟩
  · exact raise_change (.refl s) p x _ _
  · exact ho u h

theorem serialize_leads {go : Proc → State → Out} (hgo : ∀ (y : Proc) (t : State), t.Leads (go y t)) :
    s.Leads (serialize p x s go) := by
  intro u h
  rcases serialize_next h with ⟨_, rfl⟩ | ⟨_, h⟩
  · exact .refl u
  · exact ((State.Change.refl s).setProc p _).leads (hgo _ _) u h

theorem settledCore_change (s : State) (p : Nat) (x : Proc) : s.Change (settledCore s p x) := by
  obtain ⟨l, hl, e⟩ := settledCore_same s p x
  exact e ▸ .rest ⟨rfl, rfl, rfl, rfl⟩ hl

theorem serializeCore_leads {go : Proc → State → Out} (hgo : ∀ (y : Proc) (t : State), t.Leads (go y t)) :
    s.Leads (serializeCore p x s go) := by
  intro u h
  rcases serializeCore_next h with rfl | ⟨_, _, h⟩
  · exact (State.Change.refl s).setProc p _
  · exact (settledCore_change s p x).leads (hgo _ _) u h

theorem withAddresses_leads {la : W64} {acc : Access} {k : State → List Nat → Out}
    (hk : ∀ ts pas, s.Leads (k { s with tables := ts } pas)) : s.Leads (withAddresses s p x la n acc k) := by
  intro u h
  rcases withAddresses_next h with ⟨e, c, ts, rfl⟩ | ⟨pas, ts, _, _, _, h⟩
  · exact raise_change (withTables_change s ts) p x e c
  · exact hk ts pas u h

theorem withElement_leads {seg : Seg} {r : Gpr} {acc : Access} {k : State → List Nat → Out}
    (hk : ∀ ts pas, s.Leads (k { s with tables := ts } pas)) : s.Leads (withElement s p x seg r n acc k) := by
  intro u h
  rcases withElement_next h with ⟨e, c, ts, rfl⟩ | ⟨pas, ts, _, _, h⟩
  · exact raise_change (withTables_change s ts) p x e c
  · exact hk ts pas u h

theorem lockedStep_leads (a : AddrExpr) (n : Nat) (new : List Byte → List Byte) (regs : List Byte → Proc → Proc) :
    s.Leads (lockedStep a n new regs len p x s) := by
  intro u h
  rcases lockedStep_next h with rfl | ⟨e, c, ts, rfl⟩ | ⟨pas, ts, _, _, _, _, rfl⟩
  · exact .refl u
  · exact raise_change (withTables_change s ts) p x e c
  · refine State.Change.updProc ?_ p _
    exact ((withTables_change s ts).trans (writeData_change _ p _)).trans (.rest ⟨rfl, rfl, rfl, rfl⟩ rfl)

theorem stringStep_leads (ho : s.Leads o) : s.Leads (stringStep len p x s o) := by
  intro u h
  obtain ⟨_, rfl | h⟩ := stringStep_next h
  · exact (State.Change.refl s).setProc p _
  · exact ho u h

theorem ioString_leads {element : (Proc → Proc) → Out} {rep : Bool} (he : ∀ fin, s.Leads (element fin)) :
    s.Leads (ioString element rep len p x s) := by
  intro u h
  rcases ioString_next h with rfl | ⟨_, rfl | ⟨fin, h⟩⟩
  · exact .refl u
  · exact (State.Change.refl s).setProc p _
  · exact he fin u h

theorem contain_leads (ho : s.Leads o) : s.Leads (contain s p o) := by
  intro u h
  rcases contain_next h with h | ⟨r, _, rfl⟩
  · exact ho u h
  · exact (State.Change.refl s).updProc p _

/-! ## Abstract steps -/

theorem execLoad_leads (r : Gpr) (a : AddrExpr) (w : Width) : s.Leads (execLoad r a w len p x s) := by
  refine withAddresses_leads fun ts pas => ?_
  split
  · exact leads_self s
  · exact leads_next ((withTables_change s ts).setProc p _)
  · exact leads_next ((withTables_change s ts).setProc p _)

theorem execStore_leads (a : AddrExpr) (w : Width) (v : Src) : s.Leads (execStore a w v len p x s) := by
  refine withAddresses_leads fun ts pas => ?_
  split
  · exact leads_self s
  · exact leads_next ((withTables_change s ts).setProc p _)

theorem execXchg_leads (a : AddrExpr) (r : Gpr) (w : Width) : s.Leads (execXchg a r w len p x s) :=
  lockedStep_leads a w.bytes _ _

theorem execLocked_leads (f : LockFn) (a : AddrExpr) (n : Nat) : s.Leads (execLocked f a n len p x s) :=
  lockedStep_leads a n _ _

theorem noteIo_change (s : State) (p : Nat) (port : W16) (output : Option W64) :
    s.Change (s.noteIo p port output) := .rest ⟨rfl, rfl, rfl, rfl⟩ rfl

theorem execIoIn_leads (port : W16) (r : Gpr) : s.Leads (execIoIn port r len p x s) := by
  unfold execIoIn
  split
  · exact leads_self s
  · exact leads_next ((noteIo_change s p port none).setProc p _)

theorem execIoOut_leads (port : W16) (v : Src) : s.Leads (execIoOut port v len p x s) := by
  unfold execIoOut
  split
  · exact leads_self s
  · exact leads_next ((noteIo_change s p port _).setProc p _)

theorem stosElement_leads (w : Width) (fin : Proc → Proc) : s.Leads (stosElement w fin p x s) := by
  refine withElement_leads fun ts pas => ?_
  split
  · exact leads_self s
  · exact leads_next ((withTables_change s ts).setProc p _)

theorem movsElement_leads (w : Width) (fin : Proc → Proc) : s.Leads (movsElement w fin p x s) := by
  refine withElement_leads fun ts pas => ?_
  split
  · exact leads_self s
  · exact leads_next ((withTables_change s ts).setProc p _)
  · exact (withTables_change s ts).leads
      (withElement_leads fun ts' _ => leads_next ((withTables_change _ ts').setProc p _))

theorem insElement_leads (w : Width) (fin : Proc → Proc) : s.Leads (insElement w fin p x s) := by
  unfold insElement
  split
  · exact leads_setProc s p _
  · exact withElement_leads fun ts _ =>
      leads_next (((withTables_change s ts).trans (noteIo_change _ p _ _)).setProc p _)

theorem outsElement_leads (w : Width) (fin : Proc → Proc) : s.Leads (outsElement w fin p x s) := by
  refine withElement_leads fun ts pas => ?_
  split
  · exact leads_self s
  · exact leads_next ((withTables_change s ts).setProc p _)
  · exact leads_next (((withTables_change s ts).trans (noteIo_change _ p _ _)).setProc p _)

theorem execMonitor_leads (a : AddrExpr) : s.Leads (execMonitor a len p x s) := by
  unfold execMonitor
  split
  · split
    · exact leads_next (raise_change (withTables_change s _) p x _ _)
    · exact leads_next ((withTables_change s _).setProc p _)
  · exact leads_raise s p x _ _

theorem execMwait_leads : s.Leads (execMwait len p x s) := by
  unfold execMwait
  split
  · split <;> exact leads_setProc s p _
  · exact leads_raise s p x _ _

theorem dropTlb_change (s : State) (p : Nat) (which : PageMap → Bool) : s.Change (dropTlb s p which) :=
  .rest ⟨rfl, rfl, rfl, rfl⟩ rfl

theorem lockedDescriptor_change (s : State) (sel : W16) (f : Descriptor → Descriptor) :
    s.Change (lockedDescriptor s sel f) := .rest ⟨rfl, rfl, rfl, rfl⟩ rfl

theorem markTaskSegs_change (s : State) : s.Change (markTaskSegs s) := .rest ⟨rfl, rfl, rfl, rfl⟩ rfl

theorem execLtr_leads (v : TableReg) : s.Leads (execLtr v len p x s) := by
  refine privileged_leads ?_
  split
  · split
    · exact serialize_leads fun _ t => leads_next ((lockedDescriptor_change t _ _).setProc p _)
    · exact leads_self s
  · exact serialize_leads fun _ t => leads_setProc t p _

theorem movCr0Effect_leads (v : Cr0) : s.Leads (movCr0Effect v len p x s) := by
  refine leads_next (State.Change.setProc ?_ p _)
  split
  · exact .refl s
  · exact dropTlb_change s p _

theorem execMovCr0_leads (v : Cr0) : s.Leads (execMovCr0 v len p x s) := by
  refine privileged_leads ?_
  split
  · exact serialize_leads fun _ _ => movCr0Effect_leads v
  · exact serializeCore_leads fun _ _ => movCr0Effect_leads v

theorem msrExists_leads {m : Msr} (ho : s.Leads o) : s.Leads (msrExists m p x s o) := by
  unfold msrExists
  split
  · exact leads_raise s p x _ _
  · exact ho

theorem wrmsrEffect_leads (m : Msr) (v : Src) : s.Leads (wrmsrEffect m v len p x s) :=
  msrExists_leads (leads_next (((State.Change.refl s).setProc p _).trans (writeMsr_change _ p m _)))

theorem execWrmsr_leads (m : Msr) (v : Src) : s.Leads (execWrmsr m v len p x s) := by
  refine privileged_leads ?_
  split
  · exact wrmsrEffect_leads m v
  · exact serializeCore_leads fun _ _ => wrmsrEffect_leads m v

theorem execMovSeg_leads (r : Seg) (sel : W16) : s.Leads (execMovSeg r sel len p x s) := by
  unfold execMovSeg
  dsimp only
  split
  · exact leads_raise s p x _ _
  split
  · exact leads_setProc s p _
  split
  · split
    · exact leads_setProc s p _
    · exact leads_raise s p x _ _
  · split
    · exact leads_raise s p x _ _
    split
    · exact leads_setProc s p _
    split
    · exact leads_next ((lockedDescriptor_change s sel _).setProc p _)
    · exact leads_self s

theorem execTaskSwitch_leads (sel : W16) : s.Leads (execTaskSwitch sel p x s) := by
  unfold execTaskSwitch
  split
  · exact leads_raise s p x _ _
  split
  · exact leads_raise s p x _ _
  split
  · split
    · exact leads_raise s p x _ _
    · refine leads_next (State.Change.setProc ?_ p _)
      exact ((lockedDescriptor_change s sel _).trans (markTaskSegs_change _)).trans (dropTlb_change _ p _)
  · exact leads_self s

theorem execWbinvd_leads : s.Leads (execWbinvd len p x s) :=
  privileged_leads (serializeCore_leads fun _ t => leads_next ((foldl_change performFlush_change _ t).updProc p _))

theorem execInvd_leads : s.Leads (execInvd len p x s) :=
  privileged_leads (serializeCore_leads fun _ t => leads_next
    ((foldl_change (fun u l => (State.Change.drop u l).trans (flushMonitors_change _ l)) _ t).updProc p _))

/-- Every abstract step (R240). -/
theorem execStep_leads (e : AbsStep) : s.Leads (execStep e len p x s) := by
  cases e with
  | load r a w => exact execLoad_leads r a w
  | store a w v => exact execStore_leads a w v
  | movReg | addReg | andReg | orReg | jump | jumpIf | hlt | pause | cli | sti => exact leads_setProc s p _
  | lockInvalid => exact leads_raise s p x _ _
  | xchg a r w => exact execXchg_leads a r w
  | locked f a n => exact execLocked_leads f a n
  | ioIn port r => exact execIoIn_leads port r
  | ioOut port v => exact execIoOut_leads port v
  | ins w rep => exact ioString_leads fun fin => insElement_leads w fin
  | outs w rep => exact ioString_leads fun fin => outsElement_leads w fin
  | monitor a => exact execMonitor_leads a
  | mwait => exact execMwait_leads
  | cpuid | iret | rsm => exact serialize_leads fun _ t => leads_setProc t p _
  | wbinvd => exact execWbinvd_leads
  | invd => exact execInvd_leads
  | invept | invvpid | lgdt | lidt | lldt | movDr =>
    exact privileged_leads (serialize_leads fun _ t => leads_setProc t p _)
  | invlpg | movCr3 | movCr4 =>
    exact privileged_leads (serialize_leads fun _ t => leads_next ((dropTlb_change t p _).setProc p _))
  | ltr v => exact execLtr_leads v
  | movCr0 v => exact execMovCr0_leads v
  | movCr8 v => exact privileged_leads (leads_setProc s p _)
  | wrmsr m v => exact execWrmsr_leads m v
  | rdmsr m r => exact privileged_leads (serialize_leads fun _ t => msrExists_leads (leads_setProc t p _))
  | movSeg r sel => exact execMovSeg_leads r sel
  | taskSwitch sel => exact execTaskSwitch_leads sel
  | stos w => exact stosElement_leads w (·.advance len)
  | movs w => exact movsElement_leads w (·.advance len)
  | repStos w => exact stringStep_leads (stosElement_leads w (·.countDown len))
  | repMovs w => exact stringStep_leads (movsElement_leads w (·.countDown len))
  | ntStore => exact leads_refused s _

/-! ## The six instructions -/

theorem cacheLineStep_change (s : State) (p : Nat) (x : Proc) (px : Prefixes) (m : MemOp) (len : Nat)
    (ud eo : Bool) (entry : Nat → QEntry) : s.Change (cacheLineStep s p x px m len ud eo entry) := by
  rcases cacheLineStep_cases s p x px m len ud eo entry with ⟨ts, k, c, e⟩ | ⟨la, pa, ts, _, _, _, e⟩
  · exact e ▸ raise_change (withTables_change s ts) p x k c
  · exact e ▸ (withTables_change s ts).setProc p _

theorem fenceStep_leads {px : Prefixes} {feature : Bool} {effect : Proc → State} (he : ∀ x, s.Change (effect x)) :
    s.Leads (fenceStep s px feature effect) := by
  intro u h
  obtain ⟨x, _, _, ⟨_, rfl⟩ | ⟨_, _, rfl⟩⟩ := fenceStep_next h
  · exact raise_change (.refl s) s.cur x _ _
  · exact he x

theorem exec_leads (i : Instr) (s : State) : s.Leads (exec i s) := by
  cases i with
  | clflush px m | clflushopt px m | clwb px m =>
    intro u h
    simp only [exec, execClflush, execClflushopt, execClwb] at h
    split at h <;> cases h
    exact cacheLineStep_change ..
  | lfence px rm | sfence px rm => exact fenceStep_leads fun _ => (State.Change.refl s).setProc _ _
  | mfence px rm =>
    refine fenceStep_leads fun _ => ?_
    split
    · exact (State.Change.refl s).setProc _ _
    · exact .refl s

/-! ## One instruction -/

theorem runInstr_leads : s.Leads (runInstr s p x) := by
  intro u h
  have ends {t : State} (ht : s.Change t)
      (hu : u = t ∨ u = t.updProc p fun y => { y with refusal := some .pcWraps }) : s.Change u := by
    rcases hu with rfl | rfl
    · exact ht
    · exact ht.updProc p _
  rcases runInstr_next h with ⟨e, _, _, _, t, ht, hu⟩ | ⟨i, t, _, ht, hu⟩ | ⟨_, rfl⟩
  · exact ends (execStep_leads e.step t ht) hu
  · exact ends (exec_leads i s t ht) hu
  · exact raise_change (.refl s) p x _ _

theorem runProc_leads (s : State) (p : Nat) : s.Leads (runProc s p) := by
  intro u h
  have cur : s.Change { s with cur := p } := .rest ⟨rfl, rfl, rfl, rfl⟩ rfl
  obtain ⟨x, _, ⟨_, h⟩ | rfl⟩ := runProc_next h
  · exact cur.leads (contain_leads runInstr_leads) u h
  · exact cur

/-! ## Every move -/

theorem perform_leads (s : State) (p i : Nat) : s.Leads (perform s p i) := by
  intro u h
  rcases perform_next h with rfl | ⟨x, e, _, _, _, _, rfl⟩
  · exact .refl u
  · exact ((State.Change.refl s).setProc p _).trans (performEntry_change _ p e)

theorem deliver_leads (s : State) (p : Nat) : s.Leads (deliver s p) := by
  intro u h
  rcases deliver_next h with rfl | ⟨x, procs, m, more, _, _, _, _, count, _, rfl⟩
  · exact .refl u
  · exact .rest ⟨rfl, rfl, rfl, rfl⟩ count

theorem onProc_leads (s : State) (p : Nat) (f : Proc → Proc) : s.Leads (onProc s p f) := by
  unfold onProc
  split
  · exact leads_fault s _
  · exact leads_setProc s p _

theorem fillLine_change (s : State) (l : Nat) : s.Change (fillLine s l) := by
  unfold fillLine
  split
  · rename_i h
    exact .line l .clean (by simp [h.1])
  · exact .refl s

theorem evictLine_change (s : State) (l : Nat) : s.Change (evictLine s l) := by
  unfold evictLine
  split
  · rename_i h
    exact .line l .invalid (by simp [h])
  · exact .refl s

theorem spontaneousWriteBack_change (s : State) (l : Nat) (drop : Bool) :
    s.Change (spontaneousWriteBack s l drop) := by
  cases drop with
  | true => exact .flush s l
  | false => exact .writeBack s l

theorem tlbFillOf_change (s : State) (p : Nat) (x : Proc) (la : W64) : s.Change (tlbFillOf s p x la) := by
  unfold tlbFillOf
  split
  · split
    · split
      · exact .rest ⟨rfl, rfl, rfl, rfl⟩ rfl
      · exact .refl s
    · exact .refl s
  · exact .refl s

theorem onPackage_length (s : State) (k : Nat) (f : Proc → Proc) : (onPackage s k f).length = s.procs.length := by
  simp [onPackage]

/-- An event of a package changes its processors and pins. -/
theorem withPins_onPackage_change (s : State) (k : Nat) (f : Proc → Proc) (g : Pins → Pins) :
    s.Change (withPins { s with procs := onPackage s k f } k g) :=
  .rest ⟨rfl, rfl, rfl, rfl⟩ (onPackage_length s k f)

theorem lintEvent_change (s : State) (k : Nat) (one on : Bool) : s.Change (lintEvent s k one on) := by
  cases on with
  | true => exact .rest ⟨rfl, rfl, rfl, rfl⟩ (by simp [lintEvent])
  | false => exact .rest ⟨rfl, rfl, rfl, rfl⟩ rfl

theorem resetSystem_change (s : State) : s.Change (resetSystem s) :=
  .reset rfl (by simp [resetSystem, procsAtReset, Config.nproc]) rfl rfl rfl

theorem resetArbitrating_change (s : State) : s.Change (resetArbitrating s) :=
  (resetSystem_change s).trans (.rest ⟨rfl, rfl, rfl, rfl⟩ (by simp [resetArbitrating]))

theorem doEvent_leads (s : State) (e : Event) : s.Leads (doEvent s e) := by
  cases e with
  | exec p => exact runProc_leads s p
  | perform p i => exact perform_leads s p i
  | fill pa => exact leads_next (fillLine_change s _)
  | evict pa => exact leads_next (evictLine_change s _)
  | writeBack pa drop => exact leads_next (spontaneousWriteBack_change s _ drop)
  | tlbFill p la =>
    simp only [doEvent]
    split
    · exact leads_fault s _
    · exact leads_next (tlbFillOf_change s p _ la)
  | tlbDrop p la => exact leads_next (dropTlb_change s p _)
  | deliver p => exact deliver_leads s p
  | interrupt p | nmi p | smi p | init p | wake p | apicBusError p => exact onProc_leads s p _
  | stpclk k | a20m k | machineCheck k => exact leads_next (withPins_onPackage_change s k _ _)
  | lint k one on => exact leads_next (lintEvent_change s k one on)
  | busSignal => exact leads_next (.rest ⟨rfl, rfl, rfl, rfl⟩ (by simp))
  | reset => exact leads_next (resetSystem_change s)
  | resetArbitrating =>
    refine leads_next ?_
    split
    · exact resetArbitrating_change s
    · exact resetSystem_change s
  | idle => exact leads_self s

theorem chooseMove_change (s : State) : s.Change (chooseMove s).2 := by
  unfold chooseMove
  split <;> exact .rest ⟨rfl, rfl, rfl, rfl⟩ rfl

/-- One step is a chain of the moves of `State.Change` (R144 to R147). -/
theorem step_change (h : step s = .next t) : s.Change t :=
  (chooseMove_change s).leads (doEvent_leads _ _) t h

end

/-- Settles O28: every step is a chain of moves each of which keeps the parameters and the number of processors. -/
theorem stepKeepsTheProcessors : Obligations.StepKeepsTheProcessors :=
  fun _ _ hp h => (step_change h).populated hp

end Sys2Proof.Machine
end

section
/-! O49: the fields of a CPUID output are read back where they are put. -/

namespace Sys2Proof.Machine

open Sys2Proof

/-! ## Fields of a word -/

/-- A bit of the field is the value's, any other bit the word's. -/
theorem getLsbD_putField (w v : W32) {lo n : Nat} (h : lo + n ≤ 32) (i : Nat) :
    (putField w lo n v).getLsbD i = if lo ≤ i ∧ i < lo + n then v.getLsbD (i - lo) else w.getLsbD i := by
  have mask : (BitVec.ofNat 32 ((2 ^ n - 1) * 2 ^ lo)).getLsbD i = decide (lo ≤ i ∧ i < lo + n) := by
    rw [BitVec.getLsbD_ofNat, Nat.testBit_mul_two_pow, Nat.testBit_two_pow_sub_one]
    grind
  simp only [putField, BitVec.getLsbD_or, BitVec.getLsbD_and, BitVec.getLsbD_not, BitVec.getLsbD_shiftLeft, mask]
  by_cases hi : i < 32
  · grind
  · have beyond : w.getLsbD i = false := BitVec.getLsbD_of_ge w i (by omega)
    grind

/-- Reading a bit outside the field just put. -/
theorem getLsbD_putField_other (w v : W32) {lo n i : Nat} (h : lo + n ≤ 32) (apart : i < lo ∨ lo + n ≤ i) :
    (putField w lo n v).getLsbD i = w.getLsbD i := by
  rw [getLsbD_putField w v h, if_neg (by omega)]

/-- Reading the field just put. -/
theorem extractLsb'_putField_same (w v : W32) {lo n : Nat} (h : lo + n ≤ 32) :
    (putField w lo n v).extractLsb' lo n = v.setWidth n := by
  apply BitVec.eq_of_getLsbD_eq
  intro i hi
  simp [getLsbD_putField w v h, hi]

/-- Reading a field beside the one just put. -/
theorem extractLsb'_putField_other (w v : W32) {lo n lo' n' : Nat} (h : lo + n ≤ 32)
    (apart : lo' + n' ≤ lo ∨ lo + n ≤ lo') :
    (putField w lo n v).extractLsb' lo' n' = w.extractLsb' lo' n' := by
  apply BitVec.eq_of_getLsbD_eq
  intro i hi
  have beside : lo' + i < lo ∨ lo + n ≤ lo' + i := by omega
  simp [getLsbD_putField_other w v h beside]

/-- Reading a flag just put. -/
theorem getLsbD_putField_flag (w : W32) (b : Bool) {i : Nat} (h : i + 1 ≤ 32) :
    (putField w i 1 (flagBit b)).getLsbD i = b := by
  rw [getLsbD_putField w _ h]
  cases b <;> simp [flagBit]

/-- The places of the signature in EAX do not overlap (R37, R340). -/
theorem signatureOf_putSignature (w : W32) (g : Signature) : signatureOf (putSignature w g) = g := by
  simp [signatureOf, putSignature, extractLsb'_putField_same, extractLsb'_putField_other]

/-! ## CPUID -/

/-- A line size in units of 8 bytes, as a byte, from 8 bytes to the 2040 that EBX[15:8] can say (R7). -/
theorem lineUnits_mul_eight (c : Config) (least : 8 ≤ c.line) (most : c.line ≤ 2040) :
    ((BitVec.ofNat 32 (c.line / 8)).setWidth 8).toNat * 8 = c.line := by
  have whole : 8 ∣ c.line := Nat.pow_dvd_pow 2 ((Nat.pow_le_pow_iff_right (by decide : 1 < 2)).mp (show 2 ^ 3 ≤ 2 ^ c.lineLog2 from least))
  simp only [BitVec.toNat_setWidth, BitVec.toNat_ofNat]
  omega

/-- ECX does not count for a leaf without sub-leaves (R252). -/
theorem cpuid_ecx (c : Config) (p : Nat) {leaf : W32} (h : usesSubleaf leaf = false) (a b : W32) :
    cpuid c p leaf a = cpuid c p leaf b := by
  simp only [cpuid, h, Bool.false_eq_true, if_false]

/-! ### Leaves 1 and 7 (R37) -/

theorem cpuid_leaf1_eax (c : Config) (p : Nat) (sub : W32) :
    (cpuid c p 1#32 sub).eax = putSignature (cpuidOpen p 1#32 0#32).eax c.signature := rfl

theorem cpuid_leaf1_ebx (c : Config) (p : Nat) (sub : W32) :
    (cpuid c p 1#32 sub).ebx =
      putField (putField (putField (cpuidOpen p 1#32 0#32).ebx 8 8 (BitVec.ofNat 32 (c.line / 8))) 16 8
        (c.maxLpIdsPerPackage.setWidth 32)) 24 8 (c.apicIdOf p) := rfl

theorem cpuid_leaf1_ecx (c : Config) (p : Nat) (sub : W32) :
    (cpuid c p 1#32 sub).ecx = putField (cpuidOpen p 1#32 0#32).ecx 3 1 (flagBit c.hasMonitor) := rfl

theorem cpuid_leaf1_edx (c : Config) (p : Nat) (sub : W32) :
    (cpuid c p 1#32 sub).edx =
      putField (putField (putField (putField (cpuidOpen p 1#32 0#32).edx 19 1 (flagBit c.hasClfsh))
        25 1 (flagBit c.hasSse)) 26 1 (flagBit c.hasSse2)) 28 1 (flagBit c.hasHwMt) := rfl

theorem cpuid_leaf7_ebx (c : Config) (p : Nat) :
    (cpuid c p 7#32 0#32).ebx =
      putField (putField (cpuidOpen p 7#32 0#32).ebx 23 1 (flagBit c.hasClflushopt)) 24 1 (flagBit c.hasClwb) := rfl

/-- EBX[15:8] of leaf 1 is below the fields that hold the processors of a package and the APIC ID (R7, R37). -/
theorem cpuid_lineField (c : Config) (p : Nat) (sub : W32) :
    (cpuid c p 1#32 sub).ebx.extractLsb' 8 8 = (BitVec.ofNat 32 (c.line / 8)).setWidth 8 := by
  rw [cpuid_leaf1_ebx, extractLsb'_putField_other _ _ (by decide) (by decide),
    extractLsb'_putField_other _ _ (by decide) (by decide), extractLsb'_putField_same _ _ (by decide)]

/-- Settles O49: each field is read where it was put, the fields put after it lying beside it. -/
theorem cpuidReportsParameters : Obligations.CpuidReportsParameters := by
  intro c p leaf sub
  have edx := cpuid_leaf1_edx c p sub
  have ebx := cpuid_leaf7_ebx c p
  refine ⟨fun least most => ?line, ?clfsh, ?sse, ?sse2, ?hwMt, ?monitor, ?clflushopt, ?clwb, fun h4 h7 hB hF => ?ecx,
    ?signature⟩
  case line => rw [cpuid_lineField, lineUnits_mul_eight c least (by omega)]
  case clfsh | sse | sse2 | hwMt =>
    simp (disch := decide) only [edx, getLsbD_putField_flag, getLsbD_putField_other]
  case monitor => rw [cpuid_leaf1_ecx, getLsbD_putField_flag _ _ (by decide)]
  case clflushopt | clwb =>
    simp (disch := decide) only [ebx, getLsbD_putField_flag, getLsbD_putField_other]
  case ecx => exact cpuid_ecx c p (by simp [usesSubleaf, h4, h7, hB, hF]) sub 0#32
  case signature => rw [cpuid_leaf1_eax, signatureOf_putSignature]

end Sys2Proof.Machine
end

section
/-! O25: the processors at reset, one by one. -/

namespace Sys2Proof.Machine

open Sys2Proof

/-- A processor of the reset state: the one at `bspIndex` is the BSP (R351). -/
theorem getElem?_procs_resetWith (c : Config) (p : Nat) :
    (State.resetWith c).procs[p]? =
      (c.procs[p]?).map fun _ => Proc.atReset (c.apicIdOf p) (p == c.bspIndex) := List.getElem?_mapIdx

theorem eq_atReset_of_getElem?_procs_resetWith {c : Config} {p : Nat} {x : Proc}
    (h : (State.resetWith c).procs[p]? = some x) : x = Proc.atReset (c.apicIdOf p) (p == c.bspIndex) := by
  rw [getElem?_procs_resetWith, Option.map_eq_some_iff] at h
  obtain ⟨_, _, rfl⟩ := h
  rfl

/-! ## A processor at reset (R47, R330, R354) -/

@[simp] theorem Proc.atReset_bspFlag (id : W32) (bsp : Bool) : (Proc.atReset id bsp).bspFlag = bsp := rfl
@[simp] theorem Proc.atReset_activity (id : W32) (bsp : Bool) :
    (Proc.atReset id bsp).activity = if bsp then .running else .waitForSipi := rfl
@[simp] theorem Proc.atReset_pc (id : W32) (bsp : Bool) : (Proc.atReset id bsp).pc = 0xFFFFFFF0#64 := rfl
@[simp] theorem Proc.atReset_svr (id : W32) (bsp : Bool) : (Proc.atReset id bsp).apic.svr = 0#32 := rfl

/-- Settles O25: every processor is `Proc.atReset`, of a BSP at `bspIndex` and of an AP elsewhere; the rest of the claim
is the same for both. -/
theorem resetStartsTheBspAlone : Obligations.ResetStartsTheBspAlone := by
  intro c p x h
  rw [eq_atReset_of_getElem?_procs_resetWith h]
  refine ⟨fun bsp => ?bsp, fun ap => ?ap, rfl, rfl, rfl, ?svr, rfl, rfl, fun _ => rfl, rfl, rfl⟩
  case bsp => simp [bsp]
  case ap => simp [ap]
  case svr => rw [Proc.atReset_svr]; exact BitVec.getLsbD_zero

end Sys2Proof.Machine
end

section
/-! O51: which copies of an MSR a store reaches, and which of them an MTRR is read from. -/

namespace Sys2Proof.Machine

open Sys2Proof

/-! ## The copies of an MSR (R40, R41) -/

/-- A core's copy is found under the package and the number of the core, and under nothing else. -/
theorem coreKey_eq_coreKey_iff (c : Config) (p q : Nat) (m : Msr) :
    coreKey c q m = coreKey c p m ↔ coreOf c q = coreOf c p := by
  simp [coreKey, Prod.ext_iff]

theorem coreKey_ne_ownKey (c : Config) (p q : Nat) (m : Msr) : coreKey c q m ≠ ownKey p m := by
  simp [coreKey, ownKey]

/-- A copy after a store, which reaches the processor's own copy and its core's. -/
theorem copyOf_storeMsr (s : State) (p : Nat) (m : Msr) (v : W64) (k : MsrKey) :
    copyOf (storeMsr s p m v) k = if k = ownKey p m ∨ k = coreKey s.cfg p m then v else copyOf s k := by
  simp only [copyOf, storeMsr, find_putKey]
  by_cases own : k = ownKey p m
  · simp [own]
  by_cases core : k = coreKey s.cfg p m <;> simp [own, core]

/-- A core's copy after a store: the store of a processor of the core reaches it, any other leaves it. -/
theorem copyOf_storeMsr_coreKey (s : State) (p q : Nat) (m : Msr) (v : W64) :
    copyOf (storeMsr s p m v) (coreKey s.cfg q m) =
      if coreOf s.cfg q = coreOf s.cfg p then v else copyOf s (coreKey s.cfg q m) := by
  simp only [copyOf_storeMsr, coreKey_ne_ownKey, coreKey_eq_coreKey_iff, false_or]

/-! ## MTRRs -/

/-- Every bit of an MTRR is the core's (R41). -/
theorem readMsr_mtrr (s : State) (p n : Nat) (x : Proc) :
    readMsr s p x (.mtrr n) = copyOf s (coreKey s.cfg p (.mtrr n)) := by
  simp only [readMsr, storedMsr, Msr.sharedBits, BitVec.and_allOnes, BitVec.not_allOnes,
    BitVec.and_zero, BitVec.or_zero]

/-- An MTRR read on one processor after a write on another. -/
theorem readMsr_writeMsr_mtrr (s : State) (p q n : Nat) (x : Proc) (v : W64) :
    readMsr (writeMsr s p (.mtrr n) v) q x (.mtrr n) =
      if coreOf s.cfg q = coreOf s.cfg p then v else readMsr s q x (.mtrr n) := by
  rw [readMsr_mtrr, readMsr_mtrr]
  exact copyOf_storeMsr_coreKey s p q (.mtrr n) v

/-- Settles O51: an MTRR is read from its core's copy, which a write reaches exactly from the core's own processors. -/
theorem mtrrsAreSharedByTheCore : Obligations.MtrrsAreSharedByTheCore := by
  intro s p q n x v
  rw [readMsr_writeMsr_mtrr]
  exact ⟨fun same => if_pos same, fun other => if_neg other⟩

end Sys2Proof.Machine
end

section
/-! O26, O27, O42: the invariant of the memory at reset and through a step, and an invalid LOCK. -/

namespace Sys2Proof.Machine

open Sys2Proof

/-- Settles O26: nothing is listed at reset, so that every line is Invalid and Mem and Coh are equal. -/
theorem resetMeetsTheInvariant : Obligations.ResetMeetsTheInvariant := by
  intro c
  have canonical : (State.resetWith c).Canonical := ⟨(reset_memory_wf c).1, (reset_memory_wf c).2, rfl⟩
  have populated : (State.resetWith c).procs.length = c.nproc := List.length_mapIdx
  exact ⟨⟨canonical, fun _ _ => rfl⟩, populated⟩

/-- Settles O27: every step is a chain of moves each of which keeps the invariant. -/
theorem stepKeepsTheInvariant : Obligations.StepKeepsTheInvariant :=
  fun _ _ inv h => (step_change h).inv inv

/-- Settles O42: the step has no other effect than the exception. -/
theorem invalidLockRaises : Obligations.InvalidLockRaises := fun _ _ _ _ => rfl

end Sys2Proof.Machine
end

section
/-! O30, O31, O32: which entries of Q_p wait for which (R105, R144). -/

namespace Sys2Proof.Machine

open Sys2Proof

/-- Whether a write touches a line, byte by byte. -/
theorem touchesLine_iff (c : Config) (pa n l : Nat) :
    touchesLine c pa n l = true ↔ ∃ k, k < n ∧ l ≤ pa + k ∧ pa + k < l + c.line := by
  simp [touchesLine, inRange]

/-- Settles O30: the table of `blocks`, with the line of a CLFLUSHOPT or CLWB tested byte by byte. -/
theorem blockingTable : Obligations.BlockingTable := by
  intro c pa n pa' n' l m v v' e
  have touches := touchesLine_iff c pa n m
  refine ⟨rfl, rfl, rfl, rfl, rfl, rfl, rfl, touches, touches, ?co, ?cw⟩
  case co => cases e <;> rfl
  case cw => cases e <;> rfl

/-- An entry is not performed while one nearer the head blocks it. -/
theorem mayPerform_eq_false_of_blocks {c : Config} {q : List QEntry} {i j : Nat} {e f : QEntry} (hij : i < j)
    (he : q[i]? = some e) (hf : q[j]? = some f) (h : blocks c e f = true) : mayPerform c q j = false := by
  have ahead : e ∈ q.take j := List.mem_of_getElem? (by rwa [List.getElem?_take_of_lt hij])
  have blocked : (q.take j).all (fun e' => !blocks c e' f) = false :=
    List.all_eq_false.mpr ⟨e, ahead, by simp [h]⟩
  simp [mayPerform, hf, blocked]

/-- There is nothing to perform behind the last entry. -/
theorem mayPerform_eq_false_of_none {c : Config} {q : List QEntry} {j : Nat} (h : q[j]? = none) :
    mayPerform c q j = false := by
  simp [mayPerform, h]

/-- An SFENCE marker leaves the queue at its head only. -/
theorem mayPerform_sf {c : Config} {q : List QEntry} {j : Nat} (hj : j ≠ 0) (h : q[j]? = some .sf) :
    mayPerform c q j = false := by
  simp [mayPerform, h, hj]

/-- An SFENCE marker in a queue stands behind the entries before it. -/
theorem getElem?_marker (before after : List QEntry) : (before ++ .sf :: after)[before.length]? = some .sf := by
  simp

/-- Settles O31: a marker blocks every entry, and is itself performed at the head alone. -/
theorem sfenceSeparates : Obligations.SfenceSeparates := by
  intro c before after
  have marker := getElem?_marker before after
  refine ⟨fun i hi => ?behind, fun ahead => ?ahead, rfl⟩
  case behind =>
    cases hf : (before ++ .sf :: after)[i]? with
    | none => exact mayPerform_eq_false_of_none hf
    | some f => exact mayPerform_eq_false_of_blocks hi marker hf rfl
  case ahead => exact mayPerform_sf (by simpa using ahead) marker

/-- Settles O32: in each case of the statement the entry nearer the head blocks the other. -/
theorem writesAndFlushesInOrder : Obligations.WritesAndFlushesInOrder := by
  intro c q i j e f hij he hf h
  refine mayPerform_eq_false_of_blocks hij he hf ?_
  rcases h with ⟨⟨pa, n, v, rfl⟩ | ⟨l, rfl⟩, ⟨pa', n', v', rfl⟩ | ⟨l', rfl⟩⟩ | ⟨pa, n, v, l, k, rfl, hl, touched⟩
  · rfl
  · rfl
  · rfl
  · rfl
  · have touches := (touchesLine_iff c pa n l).mpr ⟨k, touched⟩
    rcases hl with rfl | rfl <;> exact touches

end Sys2Proof.Machine
end

section
/-! O14, O15: the accessed flags that the cache-line instructions set (R84). -/

namespace Sys2Proof.Machine

open Sys2Proof

section

variable {s t : State} {p la pa : Nat} {x : Proc} {ts : List AddrSpace}

/-! ## Marking a page -/

/-- Page n is page m with its accessed flag perhaps set, as `AccessedOnly` asks of each page. -/
def PageMap.SetsAccessed (m n : PageMap) : Prop :=
  n = { m with accessed := n.accessed } ∧ (m.accessed = true → n.accessed = true)

theorem setsAccessed_refl (pages : List PageMap) : List.Forall₂ PageMap.SetsAccessed pages pages :=
  List.forall₂_same.mpr fun _ _ => ⟨rfl, id⟩

theorem AccessedOnly.refl (l : List AddrSpace) : AccessedOnly l l :=
  List.forall₂_same.mpr fun _ _ => ⟨rfl, setsAccessed_refl _⟩

/-- A read marks a page as accessed and nothing more. -/
theorem mark_read (m : PageMap) : m.mark .read = { m with accessed := true } := by
  simp [PageMap.mark]

/-- Pages after a read differ in accessed flags that were set. -/
theorem markFirst_read_setsAccessed (la : Nat) (pages : List PageMap) :
    List.Forall₂ PageMap.SetsAccessed pages (markFirst la .read pages) := by
  induction pages with
  | nil => exact .nil
  | cons m pages ih =>
    unfold markFirst
    split
    · rw [mark_read]
      exact .cons ⟨rfl, fun _ => rfl⟩ (setsAccessed_refl pages)
    · exact .cons ⟨rfl, id⟩ ih

theorem markTables_read_accessedOnly (s : State) (x : Proc) (la : Nat) :
    AccessedOnly s.tables (markTables s x la .read) := by
  refine List.forall₂_map_right_iff.mpr (List.forall₂_same.mpr fun space _ => ?_)
  split
  · exact ⟨rfl, markFirst_read_setsAccessed la space.pages⟩
  · exact ⟨rfl, setsAccessed_refl space.pages⟩

/-- The page that a walk finds after a read is marked. -/
theorem accessed_of_find?_markFirst {pages : List PageMap} {page : PageMap}
    (h : (markFirst la .read pages).find? (·.covers la) = some page) : page.accessed = true := by
  induction pages with
  | nil => cases h
  | cons m pages ih =>
    unfold markFirst at h
    split at h
    · rename_i covers
      have covered : ({ m with accessed := true } : PageMap).covers la = true := covers
      rw [mark_read, List.find?_cons_of_pos (p := (PageMap.covers · la)) covered] at h
      cases h
      rfl
    · rename_i misses
      rw [List.find?_cons_of_neg (p := (PageMap.covers · la)) misses] at h
      exact ih h

/-- The pages CR3 selects after a read. -/
theorem pagesOf_markTables (h : t.tables = markTables s x la .read) :
    pagesOf t x = markFirst la .read (pagesOf s x) := by
  have same : (s.tables.find? fun space => space.cr3 == x.cr3) = (s.tables.find?
      ((fun space => space.cr3 == x.cr3) ∘ fun space =>
        if space.cr3 == x.cr3 then { space with pages := markFirst la .read space.pages } else space)) := by
    congr 1
    funext space
    by_cases eq : space.cr3 = x.cr3 <;> simp [eq]
  rw [pagesOf, pagesOf, h, markTables, List.find?_map, ← same]
  cases found : s.tables.find? fun space => space.cr3 == x.cr3 with
  | none => rfl
  | some space =>
    have selected := List.find?_some found
    simp only [Option.map_some, Option.getD_some, selected, if_true]

theorem accessed_of_walk_markTables {page : PageMap} (h : t.tables = markTables s x la .read)
    (hw : walk t x la = some page) : page.accessed = true := by
  rw [walk, pagesOf_markTables h] at hw
  exact accessed_of_find?_markFirst hw

/-! ## Translation as a read -/

/-- The tables after a translation, successful or not. -/
def TransRes.tables : TransRes → List AddrSpace
  | .ok _ t => t
  | .pageFault t => t

/-- A translation as a read leaves the tables or marks the page of the address. -/
theorem translate_read_tables (s : State) (p : Nat) (x : Proc) (la : Nat) :
    (translate s p x la .read).tables = s.tables ∨ (translate s p x la .read).tables = markTables s x la .read := by
  unfold translate translateMarking
  split
  · split <;> exact .inl rfl
  split
  · exact .inl rfl
  split
  · split
    · exact .inr rfl
    · exact .inl rfl
  · split
    · exact .inl rfl
    split
    · exact .inr rfl
    split
    · exact .inr rfl
    · exact .inl rfl

theorem translate_read_accessedOnly (s : State) (p : Nat) (x : Proc) (la : Nat) :
    AccessedOnly s.tables (translate s p x la .read).tables := by
  rcases translate_read_tables s p x la with h | h
  · exact h ▸ AccessedOnly.refl _
  · exact h ▸ markTables_read_accessedOnly s x la

/-- Where paging is in force a translation that succeeds marks the page. -/
theorem translate_read_ok_tables (mode : x.mode ≠ .realAddress) (inForce : x.pgInForce = true) (pg : x.cr0.pg = true)
    (h : translate s p x la .read = .ok pa ts) : ts = markTables s x la .read := by
  have settled : pgUnsettled x = false := by simp [pgUnsettled, inForce, pg]
  have translated : untranslated x = false := by simp [untranslated, inForce, mode]
  simp only [translate, translateMarking, settled, translated, Bool.false_eq_true, if_false] at h
  split at h
  · split at h <;> cases h
    rfl
  · split at h
    · cases h
    split at h
    · cases h
      rfl
    · split at h <;> cases h

/-! ## The six instructions -/

theorem cacheLineStep_accessedOnly (s : State) (p : Nat) (x : Proc) (px : Prefixes) (m : MemOp) (len : Nat)
    (ud eo : Bool) (entry : Nat → QEntry) :
    AccessedOnly s.tables (cacheLineStep s p x px m len ud eo entry).tables := by
  unfold cacheLineStep
  split
  · exact .refl _
  split
  · exact .refl _
  · rename_i la _
    have tables := translate_read_accessedOnly s p x la.toNat
    split <;> rename_i ht <;> rw [ht] at tables <;> exact tables

/-- A fence leaves the tables. -/
theorem fenceStep_tables {px : Prefixes} {feature : Bool} {effect : Proc → State}
    (h : fenceStep s px feature effect = .next t) (he : ∀ y, (effect y).tables = s.tables) : t.tables = s.tables := by
  obtain ⟨y, _, _, ⟨_, rfl⟩ | ⟨_, _, rfl⟩⟩ := fenceStep_next h
  · exact State.raise_tables ..
  · exact he y

/-- A cache-line instruction is `cacheLineStep` with its own #UD condition and entry (R193). -/
theorem exec_of_memoryForm {i : Instr} {px : Prefixes} {m : MemOp} (hi : memoryForm i = some (px, m))
    (hx : s.procs[s.cur]? = some x) :
    ∃ entry, exec i s = .next (cacheLineStep s s.cur x px m i.length (undefinedOpcode s.cfg i)
      (execOnlyAllowed s.cfg i) entry) := by
  cases i with
  | clflush px m => cases hi; exact ⟨.cf, by simp only [exec, execClflush, hx]; rfl⟩
  | clflushopt px m => cases hi; exact ⟨.co, by simp only [exec, execClflushopt, hx]; rfl⟩
  | clwb px m => cases hi; exact ⟨.cw, by simp only [exec, execClwb, hx]; rfl⟩
  | lfence | mfence | sfence => cases hi

/-- An instruction that answers a next state is executed by a processor there is. -/
theorem exists_proc_of_exec {i : Instr} (h : exec i s = .next t) : ∃ y, s.procs[s.cur]? = some y := by
  cases hx : s.procs[s.cur]? with
  | some y => exact ⟨y, rfl⟩
  | none =>
    cases i <;> simp [exec, execClflush, execClflushopt, execClwb, execLfence, execMfence, execSfence, fenceStep, hx]
      at h

end

/-- Settles O14: a fence leaves the tables, a cache-line instruction marks what its translation as a read marks. -/
theorem sixInstructionsSetAccessedAlone : Obligations.SixInstructionsSetAccessedAlone := by
  intro i s t h
  obtain ⟨x, hx⟩ := exists_proc_of_exec h
  have cacheLine {px : Prefixes} {m : MemOp} (hi : memoryForm i = some (px, m)) :
      AccessedOnly s.tables t.tables := by
    obtain ⟨entry, he⟩ := exec_of_memoryForm hi hx
    rw [he] at h
    cases h
    exact cacheLineStep_accessedOnly ..
  have fence (same : t.tables = s.tables) : AccessedOnly s.tables t.tables := same ▸ .refl _
  cases i with
  | clflush | clflushopt | clwb => exact cacheLine rfl
  | lfence | sfence => exact fence (fenceStep_tables h fun _ => rfl)
  | mfence => exact fence (fenceStep_tables h fun _ => by split <;> rfl)

/-- Settles O15: without an exception the operand was translated as a read, which marks the page the tables give. -/
theorem flushSetsAccessedFlag : Obligations.FlushSetsAccessedFlag := by
  intro i s t x y px m la page hi hx mode inForce pg hla h hy ended hw
  obtain ⟨entry, he⟩ := exec_of_memoryForm hi hx
  rw [he] at h
  cases h
  rcases cacheLineStep_cases s s.cur x px m i.length (undefinedOpcode s.cfg i) (execOnlyAllowed s.cfg i) entry with
    ⟨ts, k, c, raised⟩ | ⟨la', pa, ts, _, hla', ht, done⟩
  · rw [raised] at hy
    cases (State.setProc_self (s := { s with tables := ts }) hx _).symm.trans hy
    cases ended
  · cases hla.symm.trans hla'
    rw [done] at hw
    exact accessed_of_walk_markTables (translate_read_ok_tables mode inForce pg ht) hw

end Sys2Proof.Machine
end

section
/-! O33: loads and stores that are one event, against Q_p (R146, R149). -/

namespace Sys2Proof.Machine

open Sys2Proof

section

variable {s : State} {p len n : Nat} {x : Proc} {pas : List Nat}

/-- The bus lock is free or the processor's own. -/
theorem busHeld_eq_false (h : s.busLock = none ∨ s.busLock = some p) : busHeld s p = false := by
  rcases h with h | h <;> simp [busHeld, h]

/-! ## The local APIC page -/

/-- The registers of the local APIC lie in its page (R30). -/
theorem inApicPage_of_apicRegAt {pa : Nat} {r : ApicReg} (h : apicRegAt pa = some r) : inApicPage pa = true := by
  have address : r.address = pa := by simpa using List.find?_some h
  subst address
  cases r <;> decide

/-- Accesses outside the local APIC page reach no register of it. -/
theorem apicRegOf_of_outside (x : Proc) (h : ∀ pa ∈ pas, inApicPage pa = false) : apicRegOf x pas = none := by
  cases pas with
  | nil => rfl
  | cons pa pas =>
    have outside := h pa List.mem_cons_self
    have unregistered : apicRegAt pa = none := by
      cases reg : apicRegAt pa with
      | none => rfl
      | some r => exact absurd (inApicPage_of_apicRegAt reg) (by simp [outside])
    simp only [apicRegOf, unregistered, ite_self]

/-! ## Forwarding -/

/-- The byte an entry of Q_p forwards to a load of an address. -/
def QEntry.forwards (a : Nat) (e : QEntry) : Option Byte :=
  match e with
  | .w pa n v => if inRange pa n a then some (byteOf v (a - pa)) else none
  | _ => none

theorem forwarded_eq_findSome? (s : State) (x : Proc) (a : Nat) :
    forwarded s x a = (x.queue.reverse.findSome? (QEntry.forwards a)).getD (readByte s.coh a) := rfl

/-- Entries that do not write the address forward nothing. -/
theorem findSome?_forwards_eq_none {l : List QEntry} {a : Nat} (h : ∀ e ∈ l, e.writes a = false) :
    l.reverse.findSome? (QEntry.forwards a) = none := by
  refine List.findSome?_eq_none_iff.mpr fun e he => ?_
  have silent := h e (List.mem_reverse.mp he)
  cases e with
  | w pa n v => exact if_neg (by simpa [QEntry.writes] using silent)
  | cf | co | cw | sf => rfl

/-- The byte of the newest write, or of Coh, is the one that is read. -/
theorem forwarded_eq_of_newestByte {a : Nat} {b : Byte} (h : s.NewestByte x a b) : forwarded s x a = b := by
  rw [forwarded_eq_findSome?]
  rcases h with ⟨older, newer, pa, n, v, queue, lo, hi, silent, rfl⟩ | ⟨silent, rfl⟩
  · have written : QEntry.forwards a (.w pa n v) = some (byteOf v (a - pa)) := if_pos (by simp [inRange, lo, hi])
    simp [queue, List.findSome?_append, findSome?_forwards_eq_none silent, written, byteOf]
  · rw [findSome?_forwards_eq_none silent]
    rfl

/-- The bytes a load takes, outside the local APIC page. -/
theorem dataBytes_eq_of_newestByte {bs : List Byte} (outside : ∀ pa ∈ pas, inApicPage pa = false)
    (h : List.Forall₂ (s.NewestByte x) pas bs) : dataBytes s x pas = bs := by
  simp only [dataBytes, apicRegOf_of_outside x outside]
  induction h with
  | nil => rfl
  | @cons pa b pas bs newest _ ih =>
    have here : readData s x pa = b := by
      simp [readData, outside pa List.mem_cons_self, forwarded_eq_of_newestByte newest]
    rw [List.map_cons, here, ih fun a ha => outside a (List.mem_cons_of_mem _ ha)]

/-! ## One event -/

/-- An access that passes its checks goes on with its addresses. -/
theorem withAddresses_of_ok {la : W64} {acc : Access} {k : State → List Nat → Out} {ts : List AddrSpace}
    (ht : translateBytes s p x acc la n = .ok pas ts) (hs : accessStop s.cfg pas = none) :
    withAddresses s p x la n acc k = k { s with tables := ts } pas := by
  simp only [withAddresses, ht, hs]

/-- A load that is one event has its value where nothing makes it wait. -/
theorem loadBytes_of_oneEvent (lock : s.busLock = none ∨ s.busLock = some p) (uc : ucPending s.cfg x = false)
    (empty : touchesUc s.cfg pas = false ∨ x.queue = []) (one : oneEvent s.cfg pas = true) :
    loadBytes s p x pas = .value (valueOf (dataBytes s x pas)) := by
  have drained : (touchesUc s.cfg pas && !x.queue.isEmpty) = false := by
    rcases empty with h | h <;> simp [h]
  simp [loadBytes, busHeld_eq_false lock, uc, drained, one]

theorem execLoad_of_value {r : Gpr} {a : AddrExpr} {w : Width} {ts : List AddrSpace} {v : W64}
    (ht : translateBytes s p x .read (x.linearOf a) w.bytes = .ok pas ts) (hs : accessStop s.cfg pas = none)
    (hv : loadBytes s p x pas = .value v) :
    execLoad r a w len p x s =
      .next (State.setProc { s with tables := ts } p (({ x with split := [] }.put r v).advance len)) := by
  simp only [execLoad, withAddresses_of_ok ht hs, hv]

theorem execStore_of_oneEvent {a : AddrExpr} {w : Width} {v : Src} {ts : List AddrSpace}
    (ht : translateBytes s p x .write (x.linearOf a) w.bytes = .ok pas ts) (hs : accessStop s.cfg pas = none)
    (uc : ucPending s.cfg x = false) (one : oneEvent s.cfg pas = true) :
    execStore a w v len p x s = .next (State.setProc { s with tables := ts } p
      (Proc.advance { x with
        queue := x.queue ++ [.w (pas.headD 0) w.bytes (x.src v)], stale := ownStale s x pas ++ x.stale } len)) := by
  simp only [execStore, withAddresses_of_ok ht hs, uc, Bool.false_eq_true, if_false, Proc.storeBytes, storeEntries, one,
    if_true, translateBytes_length ht]

end

/-- Settles O33: one event's value or entry, with the bytes of the value forwarded one by one. -/
theorem loadForwardsTheNewestWrite : Obligations.LoadForwardsTheNewestWrite := by
  intro s p len x a w pas tb _ lock uc hs one
  refine ⟨fun r bs ht empty outside newest => ?load, fun v ht => ?store⟩
  case load =>
    have value := loadBytes_of_oneEvent lock uc empty one
    rw [dataBytes_eq_of_newestByte outside newest] at value
    exact execLoad_of_value ht hs value
  case store => exact ⟨_, execStore_of_oneEvent ht hs uc one⟩

end Sys2Proof.Machine
end

section
/-! O34 to O38, O40: the effect of performing an entry of Q_p, and of the caches' own moves, on Coh, Mem, St and the
processors (R141, R142, R145). -/

namespace Sys2Proof.Machine

open Sys2Proof

section

variable {s u : State} {p q i n a : Nat} {x : Proc} {b : Byte} {cells : List Host.Cell}

/-! ## The cells of a write -/

@[simp] theorem writtenAt_nil (a : Nat) : writtenAt [] a = none := rfl

/-- A later cell of the same address has precedence. -/
theorem writtenAt_cons (c : Host.Cell) (cells : List Host.Cell) (a : Nat) :
    writtenAt (c :: cells) a = (writtenAt cells a).or (if a = c.1 then some c.2 else none) := by
  by_cases h : c.1 = a
  · simp [writtenAt, h]
  · simp [writtenAt, h, Ne.symm h]

/-- The first cell of a write gives the byte that the others leave. -/
theorem getD_writtenAt_cons (c : Host.Cell) (cells : List Host.Cell) (a : Nat) (b : Byte) :
    (writtenAt (c :: cells) a).getD b = (writtenAt cells a).getD (if a = c.1 then c.2 else b) := by
  rw [writtenAt_cons]
  cases writtenAt cells a with
  | some later => rfl
  | none => split <;> rfl

theorem writtenAt_eq_none_iff : writtenAt cells a = none ↔ ∀ c ∈ cells, c.1 ≠ a := by
  simp [writtenAt]

theorem mem_cellsOf {pa : Nat} {v : W64} {c : Host.Cell} :
    c ∈ cellsOf pa n v ↔ ∃ k, k < n ∧ c = (pa + k, byteOf v k) := by
  simp [cellsOf, eq_comm]

/-- A property of every address of a write. -/
theorem forall_mem_cellsOf {pa : Nat} {v : W64} (P : Nat → Prop) :
    (∀ c ∈ cellsOf pa n v, P c.1) ↔ ∀ k, k < n → P (pa + k) := by
  simp [cellsOf]

theorem writtenAt_cellsOf (pa n : Nat) (v : W64) (a : Nat) :
    writtenAt (cellsOf pa n v) a = if pa ≤ a ∧ a < pa + n then some (byteOf v (a - pa)) else none := by
  split
  · rename_i h
    cases found : writtenAt (cellsOf pa n v) a with
    | none =>
      have cell : (pa + (a - pa), byteOf v (a - pa)) ∈ cellsOf pa n v := mem_cellsOf.mpr ⟨a - pa, by omega, rfl⟩
      have missing : pa + (a - pa) ≠ a := writtenAt_eq_none_iff.mp found _ cell
      omega
    | some b =>
      obtain ⟨c, hc, rfl⟩ := Option.map_eq_some_iff.mp found
      have here := List.find?_some hc
      obtain ⟨k, _, rfl⟩ := mem_cellsOf.mp (List.mem_reverse.mp (List.mem_of_find?_eq_some hc))
      obtain rfl : pa + k = a := by simpa using here
      simp
  · rename_i h
    exact writtenAt_eq_none_iff.mpr ((forall_mem_cellsOf (· ≠ a)).mpr fun k hk => by omega)

/-! ## Performing a byte -/

theorem performByte_procs (s : State) (p a : Nat) (b : Byte) :
    (performByte s p a b).procs = noteStale s.procs p a (readByte s.coh a) := by
  unfold performByte
  split <;> rfl

/-- WB memory is written back later. -/
theorem performByte_mem_of_wb (h : memType s.cfg a = .wb) : (performByte s p a b).mem = s.mem := by
  simp [performByte, h]

theorem performByte_lines_of_wb (h : memType s.cfg a = .wb) :
    (performByte s p a b).lines = (s.setLine (lineOf s.cfg a) .modified).lines := by
  simp [performByte, h]

/-- Other memory is written through. -/
theorem performByte_mem_of_not_wb (h : memType s.cfg a ≠ .wb) :
    (performByte s p a b).mem = writeByte s.mem a b := by
  simp [performByte, h]

theorem performByte_lines_of_not_wb (h : memType s.cfg a ≠ .wb) : (performByte s p a b).lines = s.lines := by
  simp [performByte, h]

/-- A byte written elsewhere leaves this byte of Mem. -/
theorem performByte_mem_other (h : s.Canonical) {k : Nat} (hk : k ≠ a) :
    readByte (performByte s p a b).mem k = readByte s.mem k := by
  by_cases wb : memType s.cfg a = .wb
  · rw [performByte_mem_of_wb wb]
  · rw [performByte_mem_of_not_wb wb, readByte_writeByte h.mem, if_neg hk]

/-! ## Performing bytes -/

theorem performBytes_cons (s : State) (p : Nat) (c : Host.Cell) (cells : List Host.Cell) :
    performBytes s p (c :: cells) = performBytes (performByte s p c.1 c.2) p cells := rfl

theorem performBytes_coh (h : s.Canonical) (p : Nat) (cells : List Host.Cell) (a : Nat) :
    readByte (performBytes s p cells).coh a = (writtenAt cells a).getD (readByte s.coh a) := by
  induction cells generalizing s with
  | nil => rfl
  | cons c cells ih =>
    rw [performBytes_cons, ih (performByte_canonical h p c.1 c.2), performByte_coh, readByte_writeByte h.coh,
      getD_writtenAt_cons]

theorem performBytes_mem_of_wb (wb : ∀ c ∈ cells, memType s.cfg c.1 = .wb) :
    (performBytes s p cells).mem = s.mem := by
  induction cells generalizing s with
  | nil => rfl
  | cons c cells ih =>
    obtain ⟨first, others⟩ := List.forall_mem_cons.mp wb
    rw [performBytes_cons, ih (by simpa only [performByte_cfg] using others), performByte_mem_of_wb first]

/-- Exactly the lines of the bytes become Modified. -/
theorem performBytes_lineState_of_wb (h : s.Canonical) (wb : ∀ c ∈ cells, memType s.cfg c.1 = .wb) (l : Nat) :
    (performBytes s p cells).lineState l =
      if ∃ c ∈ cells, lineOf s.cfg c.1 = l then .modified else s.lineState l := by
  induction cells generalizing s with
  | nil => simp [performBytes]
  | cons c cells ih =>
    obtain ⟨first, others⟩ := List.forall_mem_cons.mp wb
    have state : (performByte s p c.1 c.2).lineState l = if l = lineOf s.cfg c.1 then .modified else s.lineState l := by
      rw [State.lineState, performByte_lines_of_wb first]
      exact lineState_setLine h.lines _ l .modified
    rw [performBytes_cons, ih (performByte_canonical h p c.1 c.2) (by simpa only [performByte_cfg] using others), state]
    simp only [performByte_cfg, List.mem_cons, exists_eq_or_imp]
    by_cases later : ∃ c ∈ cells, lineOf s.cfg c.1 = l
    · rw [if_pos later, if_pos (.inr later)]
    · rw [if_neg later]
      exact if_congr ⟨fun h => .inl h.symm, fun h => (h.resolve_right later).symm⟩ rfl rfl

theorem performBytes_mem_of_not_wb (h : s.Canonical) (wt : ∀ c ∈ cells, memType s.cfg c.1 ≠ .wb) (a : Nat) :
    readByte (performBytes s p cells).mem a = (writtenAt cells a).getD (readByte s.mem a) := by
  induction cells generalizing s with
  | nil => rfl
  | cons c cells ih =>
    obtain ⟨first, others⟩ := List.forall_mem_cons.mp wt
    rw [performBytes_cons, ih (performByte_canonical h p c.1 c.2) (by simpa only [performByte_cfg] using others),
      performByte_mem_of_not_wb first, readByte_writeByte h.mem, getD_writtenAt_cons]

theorem performBytes_lines_of_not_wb (wt : ∀ c ∈ cells, memType s.cfg c.1 ≠ .wb) :
    (performBytes s p cells).lines = s.lines := by
  induction cells generalizing s with
  | nil => rfl
  | cons c cells ih =>
    obtain ⟨first, others⟩ := List.forall_mem_cons.mp wt
    rw [performBytes_cons, ih (by simpa only [performByte_cfg] using others), performByte_lines_of_not_wb first]

/-- A byte of Mem that is not written. -/
theorem performBytes_mem_other (h : s.Canonical) (ha : ∀ c ∈ cells, c.1 ≠ a) :
    readByte (performBytes s p cells).mem a = readByte s.mem a := by
  induction cells generalizing s with
  | nil => rfl
  | cons c cells ih =>
    obtain ⟨first, others⟩ := List.forall_mem_cons.mp ha
    rw [performBytes_cons, ih (performByte_canonical h p c.1 c.2) others, performByte_mem_other h first.symm]

/-- A processor keeps all but the old bytes its fetch may see (log 13). -/
theorem performBytes_proc (hq : s.procs[q]? = some x) (p : Nat) (cells : List Host.Cell) :
    ∃ stale, (performBytes s p cells).procs[q]? = some { x with stale := stale } := by
  induction cells generalizing s x with
  | nil => exact ⟨x.stale, hq⟩
  | cons c cells ih =>
    have first : ∃ stale, (performByte s p c.1 c.2).procs[q]? = some { x with stale := stale } := by
      rw [performByte_procs, noteStale, List.getElem?_mapIdx, hq, Option.map_some]
      split
      · exact ⟨x.stale, rfl⟩
      · exact ⟨_, rfl⟩
    obtain ⟨stale, hs⟩ := first
    obtain ⟨last, hl⟩ := ih hs
    exact ⟨last, hl⟩

/-! ## Monitors -/

/-- Whether a monitor armed on a range is triggered by a write. -/
theorem triggerMonitors_armed {lo size : Nat} (hq : s.procs[q]? = some x) (armed : x.monitor = .armed lo size)
    (other : q ≠ p) (addrs : List Nat) :
    (triggerMonitors s p addrs).procs[q]? =
      some (if ∃ a ∈ addrs, memType s.cfg a = .wb ∧ lo ≤ a ∧ a < lo + size then x.trigger else x) := by
  simp [triggerMonitors, List.getElem?_mapIdx, hq, armed, other, inRange]

/-- A write leaves a processor or triggers its monitor. -/
theorem triggerMonitors_proc (hq : s.procs[q]? = some x) (p : Nat) (addrs : List Nat) :
    ∃ y, (triggerMonitors s p addrs).procs[q]? = some y ∧ (y = x ∨ y = x.trigger) := by
  simp only [triggerMonitors, List.getElem?_mapIdx, hq, Option.map_some]
  refine ⟨_, rfl, ?_⟩
  split
  · exact .inl rfl
  · split
    · exact .inr rfl
    · exact .inl rfl

@[simp] theorem Proc.trigger_queue (x : Proc) : x.trigger.queue = x.queue := rfl
@[simp] theorem Proc.trigger_gpr (x : Proc) : x.trigger.gpr = x.gpr := rfl
@[simp] theorem Proc.trigger_pc (x : Proc) : x.trigger.pc = x.pc := rfl
@[simp] theorem Proc.trigger_monitor (x : Proc) : x.trigger.monitor = .triggered := rfl

/-- A triggered processor is not in an MWAIT. -/
theorem Proc.trigger_activity_ne (x : Proc) : x.trigger.activity ≠ .mwaitWait := by
  unfold Proc.trigger
  dsimp only
  split <;> simp_all

/-! ## Performing a write -/

theorem performWrite_cfg (s : State) (p : Nat) (cells : List Host.Cell) : (performWrite s p cells).cfg = s.cfg :=
  performBytes_cfg s p cells

/-- Queue, general registers and pc of a processor stay. -/
theorem performWrite_proc (hq : s.procs[q]? = some x) (p : Nat) (cells : List Host.Cell) :
    ∃ y, (performWrite s p cells).procs[q]? = some y ∧ y.queue = x.queue ∧ y.gpr = x.gpr ∧ y.pc = x.pc := by
  obtain ⟨stale, hs⟩ := performBytes_proc hq p cells
  obtain ⟨y, hy, rfl | rfl⟩ := triggerMonitors_proc hs p (cells.map (·.1))
  · exact ⟨_, hy, rfl, rfl, rfl⟩
  · exact ⟨_, hy, rfl, rfl, rfl⟩

theorem performWrite_cellsOf_coh (h : s.Canonical) (p pa n : Nat) (v : W64) (a : Nat) :
    readByte (performWrite s p (cellsOf pa n v)).coh a =
      if pa ≤ a ∧ a < pa + n then v.extractLsb' (8 * (a - pa)) 8 else readByte s.coh a := by
  have bytes := performBytes_coh h p (cellsOf pa n v) a
  rw [writtenAt_cellsOf] at bytes
  refine bytes.trans ?_
  split <;> rfl

/-- Outside the local APIC page a write is one of memory. -/
theorem writeData_of_outside (outside : ∀ c ∈ cells, inApicPage c.1 = false) :
    writeData s p cells = performWrite s p cells := by
  have addresses : ∀ pa ∈ cells.map (·.1), inApicPage pa = false := by simpa using outside
  have unregistered : ((s.procs[p]?).bind fun x => apicRegOf x (cells.map (·.1))) = none := by
    cases s.procs[p]? with
    | none => rfl
    | some x => exact apicRegOf_of_outside x addresses
  have apart : (cells.map (·.1)).any inApicPage = false := List.any_eq_false.mpr (by simpa using outside)
  simp [writeData, unregistered, apart]

/-- The local APIC page is UC (R30). -/
theorem inApicPage_eq_false_of_memType {c : Config} (h : memType c a ≠ .uc) : inApicPage a = false := by
  by_contra inside
  exact h (by simp [memType, inside])

/-! ## Performing an entry -/

/-- An entry that may be performed leaves Q_p and has its effect. -/
theorem doEvent_perform {e : QEntry} (hx : s.procs[p]? = some x) (he : x.queue[i]? = some e)
    (may : mayPerform s.cfg x.queue i = true) (lock : s.busLock = none ∨ s.busLock = some p) :
    doEvent s (.perform p i) =
      .next (performEntry (s.setProc p { x with queue := x.queue.eraseIdx i }) p e) := by
  simp [doEvent, perform, hx, he, may, busHeld_eq_false lock]

/-- A write outside the local APIC page that may be performed: its own processor afterwards, and the state as
`performWrite` makes it. -/
theorem doEvent_perform_write {pa : Nat} {v : W64} (hx : s.procs[p]? = some x)
    (he : x.queue[i]? = some (.w pa n v)) (may : mayPerform s.cfg x.queue i = true)
    (lock : s.busLock = none ∨ s.busLock = some p) (outside : ∀ k, k < n → inApicPage (pa + k) = false) :
    ∃ y t, doEvent s (.perform p i) = .next t ∧
      t = performWrite (s.setProc p { x with queue := x.queue.eraseIdx i }) p (cellsOf pa n v) ∧
      t.procs[p]? = some y ∧ y.queue = x.queue.eraseIdx i ∧ y.gpr = x.gpr ∧ y.pc = x.pc := by
  obtain ⟨y, hy, queue, gpr, pc⟩ := performWrite_proc (State.setProc_self hx { x with queue := x.queue.eraseIdx i }) p
    (cellsOf pa n v)
  refine ⟨y, _, ?_, rfl, hy, queue, gpr, pc⟩
  rw [doEvent_perform hx he may lock, performEntry,
    writeData_of_outside ((forall_mem_cellsOf (inApicPage · = false)).mpr outside)]

end

/-- Settles O34: each of the bytes goes to Coh and makes its line Modified. -/
theorem performedWriteReachesCoh : Obligations.PerformedWriteReachesCoh := by
  intro s p i pa n v x canonical hx he may lock wb
  obtain ⟨y, t, ht, rfl, hy, queue, gpr, pc⟩ := doEvent_perform_write hx he may lock
    fun k hk => inApicPage_eq_false_of_memType (c := s.cfg) (by simp [wb k hk])
  have dequeued : (s.setProc p { x with queue := x.queue.eraseIdx i }).Canonical :=
    ⟨canonical.coh, canonical.mem, canonical.lines⟩
  have cells : ∀ c ∈ cellsOf pa n v, memType s.cfg c.1 = .wb :=
    (forall_mem_cellsOf (memType s.cfg · = .wb)).mpr wb
  have lines := performBytes_lineState_of_wb (p := p) dequeued cells
  have touched (l : Nat) : (∃ c ∈ cellsOf pa n v, lineOf s.cfg c.1 = l) ↔ ∃ k, k < n ∧ lineOf s.cfg (pa + k) = l := by
    simp [cellsOf]
  refine ⟨_, y, ht, hy, queue, gpr, pc, performBytes_mem_of_wb cells, performWrite_cellsOf_coh dequeued p pa n v,
    fun l hl => ?_, fun l hl => ?_⟩
  · exact (lines l).trans (if_pos ((touched l).mpr hl))
  · exact (lines l).trans (if_neg fun h => by
      obtain ⟨k, hk, eq⟩ := (touched l).mp h
      exact hl k hk eq)

/-- Settles O35: each of the bytes goes to Coh and through to Mem. -/
theorem uncachedWriteReachesMem : Obligations.UncachedWriteReachesMem := by
  intro s p i pa n v x canonical hx he may lock type apart
  have outside : ∀ k, k < n → inApicPage (pa + k) = false := by simpa [touchesApic] using apart
  obtain ⟨y, t, ht, rfl, hy, queue, _, _⟩ := doEvent_perform_write hx he may lock outside
  have dequeued : (s.setProc p { x with queue := x.queue.eraseIdx i }).Canonical :=
    ⟨canonical.coh, canonical.mem, canonical.lines⟩
  have cells : ∀ c ∈ cellsOf pa n v, memType s.cfg c.1 ≠ .wb :=
    (forall_mem_cellsOf (memType s.cfg · ≠ .wb)).mpr fun k hk => by rcases type k hk with h | h <;> simp [h]
  refine ⟨_, y, ht, hy, queue, performBytes_lines_of_not_wb cells,
    fun a => ⟨performWrite_cellsOf_coh dequeued p pa n v a, ?_⟩⟩
  have mem := performBytes_mem_of_not_wb (p := p) dequeued cells a
  rw [writtenAt_cellsOf] at mem
  refine mem.trans ?_
  split <;> rfl

/-- Settles O36: the bytes change no monitor, and then exactly those armed on one of WB memory are triggered. -/
theorem writeTriggersOtherMonitors : Obligations.WriteTriggersOtherMonitors := by
  intro s p q pa n lo size v x other hq armed
  obtain ⟨stale, hs⟩ := performBytes_proc hq p (cellsOf pa n v)
  have after := triggerMonitors_armed hs armed other ((cellsOf pa n v).map (·.1))
  have watched : (∃ a ∈ (cellsOf pa n v).map (·.1), memType (performBytes s p (cellsOf pa n v)).cfg a = .wb ∧
      lo ≤ a ∧ a < lo + size) ↔ ∃ k, k < n ∧ memType s.cfg (pa + k) = .wb ∧ lo ≤ pa + k ∧ pa + k < lo + size := by
    simp [cellsOf, performBytes_cfg]
  simp only [watched] at after
  refine ⟨_, after, fun h => ?_, fun h => ?_⟩
  · rw [if_pos h]
    exact ⟨rfl, Proc.trigger_activity_ne _⟩
  · rw [if_neg fun ⟨k, hk, seen⟩ => h k hk seen]
    exact ⟨rfl, rfl⟩

/-! ## Lines written back -/

/-- u is s after line l was written back where it was Modified, with the monitors that this may trigger; the line's own
state is left open (R142, R145). -/
structure State.WrittenBack (s u : State) (l : Nat) : Prop where
  coh : u.coh = s.coh
  mem : ∀ a, readByte u.mem a = if l ≤ a ∧ a < l + s.cfg.line then readByte s.coh a else readByte s.mem a
  lines : ∀ k, k ≠ l → u.lineState k = s.lineState k
  count : u.procs.length = s.procs.length
  seen : ∀ (q : Nat) (z : Proc), s.procs[q]? = some z → ∃ y, u.procs[q]? = some y ∧ FlushSeen l s.cfg.line z y
  rest : u = { s with procs := u.procs, mem := u.mem, lines := u.lines }

section

variable {s u : State} {p i : Nat} {x : Proc}

theorem writeBackLine_rest (s : State) (l : Nat) :
    writeBackLine s l = { s with mem := (writeBackLine s l).mem, lines := (writeBackLine s l).lines } := by
  unfold writeBackLine
  split <;> rfl

theorem flushLine_rest (s : State) (l : Nat) :
    flushLine s l = { s with mem := (flushLine s l).mem, lines := (flushLine s l).lines } :=
  congrArg (·.setLine l .invalid) (writeBackLine_rest s l)

/-- A line written back holds what Coh holds: it was Modified, or Mem and Coh agreed on it (R140). -/
theorem writeBackLine_mem_of_inv (h : s.Inv) (b a : Nat) :
    readByte (writeBackLine s (lineOf s.cfg b)).mem a =
      if lineOf s.cfg b ≤ a ∧ a < lineOf s.cfg b + s.cfg.line then readByte s.coh a else readByte s.mem a := by
  rw [writeBackLine_mem h.canonical]
  by_cases inside : lineOf s.cfg b ≤ a ∧ a < lineOf s.cfg b + s.cfg.line
  · by_cases modified : s.lineState (lineOf s.cfg b) = .modified
    · simp [inside, modified]
    · have agree := h.coherent a (by rwa [(lineOf_eq_iff s.cfg b a).mpr inside])
      simp [modified, agree]
  · simp [inside]

/-- The monitors after a move of the line that changed Mem and St alone. -/
theorem flushMonitors_writtenBack {l : Nat} (rest : u = { s with mem := u.mem, lines := u.lines })
    (mem : ∀ a, readByte u.mem a = if l ≤ a ∧ a < l + s.cfg.line then readByte s.coh a else readByte s.mem a)
    (lines : ∀ k, k ≠ l → u.lineState k = s.lineState k) : s.WrittenBack (flushMonitors u l) l := by
  have cfg : u.cfg = s.cfg := by rw [rest]
  have coh : u.coh = s.coh := by rw [rest]
  have procs : u.procs = s.procs := by rw [rest]
  refine ⟨coh, mem, lines, by simp [flushMonitors, procs], fun q z hz => ?_,
    congrArg (fun w : State => { w with procs := (flushMonitors u l).procs }) rest⟩
  rw [← procs] at hz
  exact cfg ▸ flushMonitors_proc l hz

theorem performFlush_writtenBack (h : s.Inv) (b : Nat) :
    s.WrittenBack (performFlush s (lineOf s.cfg b)) (lineOf s.cfg b) :=
  flushMonitors_writtenBack (flushLine_rest s _) (writeBackLine_mem_of_inv h b)
    fun k hk => by rw [flushLine_lineState h.canonical, if_neg hk]

theorem performFlush_lineState (h : s.Canonical) (l : Nat) : (performFlush s l).lineState l = .invalid :=
  (flushLine_lineState h l l).trans (if_pos rfl)

/-- A CLWB that drops its line is a flush, one that keeps it a write-back. -/
theorem performClwb_eq (s : State) (l : Nat) :
    performClwb s l =
      if Config.clwbInvalidates s.tick then performFlush s l else flushMonitors (writeBackLine s l) l := by
  simp only [performClwb, performFlush, flushLine]
  split <;> rfl

theorem performClwb_writtenBack (h : s.Inv) (b : Nat) :
    s.WrittenBack (performClwb s (lineOf s.cfg b)) (lineOf s.cfg b) := by
  rw [performClwb_eq]
  split
  · exact performFlush_writtenBack h b
  · exact flushMonitors_writtenBack (writeBackLine_rest s _) (writeBackLine_mem_of_inv h b)
      fun k hk => by rw [writeBackLine_lineState h.canonical, if_neg fun both => hk both.1]

/-- The line of a CLWB is Invalid, or Clean where it was not Invalid before. -/
theorem performClwb_lineState (h : s.Canonical) (l : Nat) :
    (performClwb s l).lineState l = .invalid ∨ s.lineState l ≠ .invalid ∧ (performClwb s l).lineState l = .clean := by
  rw [performClwb_eq]
  split
  · exact .inl (performFlush_lineState h l)
  · have kept : (flushMonitors (writeBackLine s l) l).lineState l =
        if l = l ∧ s.lineState l = .modified then .clean else s.lineState l := writeBackLine_lineState h l l
    rw [kept]
    cases s.lineState l <;> simp

/-- The same, seen from the state before the entry left Q_p. -/
theorem State.WrittenBack.of_dequeued {l : Nat} (hx : s.procs[p]? = some x)
    (h : (s.setProc p { x with queue := x.queue.eraseIdx i }).WrittenBack u l) :
    u.procs.length = s.procs.length ∧
    (∀ (q : Nat) (z : Proc), s.procs[q]? = some z → ∃ y, u.procs[q]? = some y ∧
      FlushSeen l s.cfg.line (if q = p then { z with queue := z.queue.eraseIdx i } else z) y) ∧
    u = { s with procs := u.procs, mem := u.mem, lines := u.lines } := by
  refine ⟨by simpa using h.count, fun q z hz => ?_, h.rest⟩
  refine h.seen q _ ?_
  split
  · rename_i own
    subst own
    cases hx.symm.trans hz
    exact State.setProc_self hx _
  · rename_i other
    exact (State.setProc_other s other _).trans hz

end

/-- Settles O37: either entry is the flush of its line. -/
theorem flushPerformed : Obligations.FlushPerformed := by
  intro s p i b x inv hx he may lock l
  have dequeued := (setProc_sameMemory s p { x with queue := x.queue.eraseIdx i }).inv inv
  have flushed := performFlush_writtenBack dequeued b
  have event : doEvent s (.perform p i) =
      .next (performFlush (s.setProc p { x with queue := x.queue.eraseIdx i }) l) := by
    rcases he with he | he <;> exact doEvent_perform hx he may lock
  exact ⟨_, event, flushed.coh, flushed.mem, performFlush_lineState dequeued.canonical l, flushed.lines,
    flushed.of_dequeued hx⟩

/-- Settles O38: the entry is the write-back of its line, which is then kept or dropped. -/
theorem clwbPerformed : Obligations.ClwbPerformed := by
  intro s p i b x inv hx he may lock l
  have dequeued := (setProc_sameMemory s p { x with queue := x.queue.eraseIdx i }).inv inv
  have written := performClwb_writtenBack dequeued b
  exact ⟨_, doEvent_perform hx he may lock, written.coh, written.mem, performClwb_lineState dequeued.canonical l,
    written.lines, written.of_dequeued hx⟩

/-! ## The caches by themselves (R141) -/

theorem fillLine_rest (s : State) (l : Nat) :
    fillLine s l = { s with mem := (fillLine s l).mem, lines := (fillLine s l).lines } := by
  unfold fillLine
  split <;> rfl

theorem evictLine_rest (s : State) (l : Nat) :
    evictLine s l = { s with mem := (evictLine s l).mem, lines := (evictLine s l).lines } := by
  unfold evictLine
  split <;> rfl

theorem spontaneousWriteBack_rest (s : State) (l : Nat) (drop : Bool) :
    spontaneousWriteBack s l drop =
      { s with mem := (spontaneousWriteBack s l drop).mem, lines := (spontaneousWriteBack s l drop).lines } := by
  cases drop with
  | true => exact flushLine_rest s l
  | false => exact writeBackLine_rest s l

/-- Settles O40: each of the moves changes Mem and St alone. -/
theorem spontaneousStepsAreInvisible : Obligations.SpontaneousStepsAreInvisible := by
  intro s t pa e drop he h
  have alone : t = { s with mem := t.mem, lines := t.lines } := by
    rcases he with rfl | rfl | rfl <;> cases h
    · exact fillLine_rest s _
    · exact evictLine_rest s _
    · exact spontaneousWriteBack_rest s _ drop
  have coh : t.coh = s.coh := by rw [alone]
  have procs : t.procs = s.procs := by rw [alone]
  exact ⟨coh, procs, alone⟩

end Sys2Proof.Machine
end

section
/-! O39: a write, the flush of its line and an SFENCE (R148). Each move of the memory system is shown once to keep the
queues and one byte that no entry writes; the way of the byte to Mem is then an invariant of every run of such moves. -/

namespace Sys2Proof.Machine

open Sys2Proof

section

variable {s t u : State} {p q a i : Nat} {e : QEntry} {cells : List Host.Cell}

/-! ## What a move leaves of the queues -/

/-- The queues of all processors. -/
def State.queues (s : State) : List (List QEntry) := s.procs.map (·.queue)

theorem getElem?_queues {x : Proc} (h : s.procs[p]? = some x) : s.queues[p]? = some x.queue := by
  simp [State.queues, h]

theorem exists_proc_of_getElem?_queues {l : List QEntry} (h : s.queues[p]? = some l) :
    ∃ x, s.procs[p]? = some x ∧ x.queue = l := by
  simpa [State.queues] using h

theorem queues_setProc (s : State) (p : Nat) (x : Proc) : (s.setProc p x).queues = s.queues.set p x.queue :=
  List.map_set

/-- Two states with the same parameters and the same queues. -/
structure State.SameQueues (s t : State) : Prop where
  cfg : t.cfg = s.cfg
  queues : t.queues = s.queues

theorem State.SameQueues.trans (h : s.SameQueues t) (g : t.SameQueues u) : s.SameQueues u :=
  ⟨g.cfg.trans h.cfg, g.queues.trans h.queues⟩

/-- A change of processors that leaves their queues. -/
theorem map_queue_mapIdx {f : Nat → Proc → Proc} (hf : ∀ q x, (f q x).queue = x.queue) (procs : List Proc) :
    (procs.mapIdx f).map (·.queue) = procs.map (·.queue) := by
  apply List.ext_getElem?
  intro q
  cases h : procs[q]? <;> simp [h, hf]

theorem map_queue_modify {f : Proc → Proc} (hf : ∀ x, (f x).queue = x.queue) (procs : List Proc) (p : Nat) :
    (procs.modify p f).map (·.queue) = procs.map (·.queue) := by
  apply List.ext_getElem?
  intro q
  by_cases own : p = q <;> cases h : procs[q]? <;> simp [own, h, hf]

theorem performByte_sameQueues (s : State) (p a : Nat) (b : Byte) : s.SameQueues (performByte s p a b) := by
  refine ⟨performByte_cfg s p a b, ?_⟩
  rw [State.queues, performByte_procs]
  exact map_queue_mapIdx (fun q x => by split <;> rfl) s.procs

theorem performBytes_sameQueues (s : State) (p : Nat) (cells : List Host.Cell) :
    s.SameQueues (performBytes s p cells) := by
  induction cells generalizing s with
  | nil => exact ⟨rfl, rfl⟩
  | cons c cells ih => exact (performByte_sameQueues s p c.1 c.2).trans (ih _)

theorem triggerMonitors_sameQueues (s : State) (p : Nat) (addrs : List Nat) :
    s.SameQueues (triggerMonitors s p addrs) := by
  refine ⟨rfl, map_queue_mapIdx (fun q x => ?_) s.procs⟩
  split
  · rfl
  · split <;> rfl

theorem flushMonitors_sameQueues (s : State) (l : Nat) : s.SameQueues (flushMonitors s l) := by
  refine ⟨rfl, map_queue_mapIdx (fun q x => ?_) s.procs⟩
  split
  · rfl
  · split <;> rfl

theorem performWrite_sameQueues (s : State) (p : Nat) (cells : List Host.Cell) :
    s.SameQueues (performWrite s p cells) :=
  (performBytes_sameQueues s p cells).trans (triggerMonitors_sameQueues _ p _)

theorem apicStore_sameQueues (s : State) (p : Nat) (r : ApicReg) (v : W32) : s.SameQueues (apicStore s p r v) := by
  have stored := map_queue_modify (f := fun x => { x with apic := x.apic.write r v }) (fun _ => rfl) s.procs p
  unfold apicStore
  dsimp only
  split <;> exact ⟨rfl, stored⟩

theorem apicOtherStore_sameQueues (s : State) (p : Nat) (pas : List Nat) :
    s.SameQueues (apicOtherStore s p pas) := by
  have scrambled := map_queue_modify (f := fun x => x.scrambleApic s.tick pas)
    (fun x => by unfold Proc.scrambleApic; split <;> rfl) s.procs p
  unfold apicOtherStore
  dsimp only
  split
  · split <;> exact ⟨rfl, scrambled⟩
  · exact ⟨rfl, scrambled⟩

theorem writeData_sameQueues (s : State) (p : Nat) (cells : List Host.Cell) : s.SameQueues (writeData s p cells) := by
  rcases writeData_cases s p cells with ⟨r, v, h⟩ | ⟨pas, inner, h⟩ | h
  · exact h ▸ apicStore_sameQueues s p r v
  · exact h ▸ (performWrite_sameQueues s p inner).trans (apicOtherStore_sameQueues _ p pas)
  · exact h ▸ performWrite_sameQueues s p cells

theorem writeBackLine_sameQueues (s : State) (l : Nat) : s.SameQueues (writeBackLine s l) :=
  ⟨writeBackLine_cfg s l, by rw [State.queues, writeBackLine_procs]; rfl⟩

theorem flushLine_sameQueues (s : State) (l : Nat) : s.SameQueues (flushLine s l) :=
  (writeBackLine_sameQueues s l).trans ⟨rfl, rfl⟩

theorem performFlush_sameQueues (s : State) (l : Nat) : s.SameQueues (performFlush s l) :=
  (flushLine_sameQueues s l).trans (flushMonitors_sameQueues _ l)

theorem performClwb_sameQueues (s : State) (l : Nat) : s.SameQueues (performClwb s l) := by
  rw [performClwb_eq]
  split
  · exact performFlush_sameQueues s l
  · exact (writeBackLine_sameQueues s l).trans (flushMonitors_sameQueues _ l)

/-- The effect of an entry that has left its queue changes no queue. -/
theorem performEntry_sameQueues (s : State) (p : Nat) (e : QEntry) : s.SameQueues (performEntry s p e) := by
  cases e with
  | w pa n v => exact writeData_sameQueues s p _
  | cf l | co l => exact performFlush_sameQueues s l
  | cw l => exact performClwb_sameQueues s l
  | sf => exact ⟨rfl, rfl⟩

/-! ## What a move leaves of a byte -/

/-- Between s and t the byte of Coh at a stays; that of Mem stays or comes to be the byte of Coh. -/
structure State.KeepsByte (a : Nat) (s t : State) : Prop where
  coh : readByte t.coh a = readByte s.coh a
  mem : readByte t.mem a = readByte s.coh a ∨ readByte t.mem a = readByte s.mem a

theorem State.KeepsByte.trans (h : s.KeepsByte a t) (g : t.KeepsByte a u) : s.KeepsByte a u := by
  refine ⟨g.coh.trans h.coh, ?_⟩
  rcases g.mem with eq | eq
  · exact .inl (eq.trans h.coh)
  · rw [eq]
    exact h.mem

theorem State.SameMemory.keepsByte (h : s.SameMemory t) (a : Nat) : s.KeepsByte a t :=
  ⟨by rw [h.coh], .inr (by rw [h.mem])⟩

theorem performWrite_keepsByte (h : s.Canonical) (p : Nat) (ha : ∀ c ∈ cells, c.1 ≠ a) :
    s.KeepsByte a (performWrite s p cells) := by
  have coh := performBytes_coh h p cells a
  rw [writtenAt_eq_none_iff.mpr ha] at coh
  exact ⟨coh, .inr (performBytes_mem_other h ha)⟩

theorem writeData_keepsByte (h : s.Canonical) (p : Nat) (ha : ∀ c ∈ cells, c.1 ≠ a) :
    s.KeepsByte a (writeData s p cells) := by
  unfold writeData
  dsimp only
  split
  · exact (apicStore_sameMemory s p _ _).keepsByte a
  · split
    · exact (performWrite_keepsByte h p fun c hc => ha c (List.mem_of_mem_filter hc)).trans
        ((apicOtherStore_sameMemory _ p _).keepsByte a)
    · exact performWrite_keepsByte h p ha

theorem writeBackLine_keepsByte (h : s.Canonical) (l a : Nat) : s.KeepsByte a (writeBackLine s l) := by
  refine ⟨by rw [writeBackLine_coh], ?_⟩
  rw [writeBackLine_mem h]
  split
  · exact .inl rfl
  · exact .inr rfl

theorem flushLine_keepsByte (h : s.Canonical) (l a : Nat) : s.KeepsByte a (flushLine s l) :=
  (writeBackLine_keepsByte h l a).trans ⟨rfl, .inr rfl⟩

theorem performFlush_keepsByte (h : s.Canonical) (l a : Nat) : s.KeepsByte a (performFlush s l) :=
  (flushLine_keepsByte h l a).trans ((flushMonitors_sameMemory _ l).keepsByte a)

theorem performClwb_keepsByte (h : s.Canonical) (l a : Nat) : s.KeepsByte a (performClwb s l) := by
  rw [performClwb_eq]
  split
  · exact performFlush_keepsByte h l a
  · exact (writeBackLine_keepsByte h l a).trans ((flushMonitors_sameMemory _ l).keepsByte a)

/-- A performed entry that is no write of the byte keeps it. -/
theorem performEntry_keepsByte (h : s.Canonical) (p : Nat) (silent : e.writes a = false) :
    s.KeepsByte a (performEntry s p e) := by
  cases e with
  | w pa n v =>
    have elsewhere : ∀ c ∈ cellsOf pa n v, c.1 ≠ a := by
      refine (forall_mem_cellsOf (· ≠ a)).mpr fun k hk eq => ?_
      simp [QEntry.writes, inRange] at silent
      omega
    exact writeData_keepsByte h p elsewhere
  | cf l | co l => exact performFlush_keepsByte h l a
  | cw l => exact performClwb_keepsByte h l a
  | sf => exact ⟨rfl, .inr rfl⟩

/-! ## The moves of the memory system -/

/-- A move of the caches keeps the queues and every byte. -/
theorem cacheMove_keeps {ev : Event} (h : s.Canonical)
    (hev : (∃ pa, ev = .fill pa) ∨ (∃ pa, ev = .evict pa) ∨ ∃ pa drop, ev = .writeBack pa drop)
    (ht : doEvent s ev = .next t) (a : Nat) : s.SameQueues t ∧ s.KeepsByte a t := by
  rcases hev with ⟨pa, rfl⟩ | ⟨pa, rfl⟩ | ⟨pa, drop, rfl⟩ <;> cases ht
  · unfold fillLine
    split <;> exact ⟨⟨rfl, rfl⟩, rfl, .inr rfl⟩
  · unfold evictLine
    split <;> exact ⟨⟨rfl, rfl⟩, rfl, .inr rfl⟩
  · cases drop with
    | true => exact ⟨flushLine_sameQueues s _, flushLine_keepsByte h _ a⟩
    | false => exact ⟨writeBackLine_sameQueues s _, writeBackLine_keepsByte h _ a⟩

theorem eq_cacheMove_or_perform {ev : Event} (h : ev.ofMemory = true) :
    ((∃ pa, ev = .fill pa) ∨ (∃ pa, ev = .evict pa) ∨ ∃ pa drop, ev = .writeBack pa drop) ∨
      ∃ q i, ev = .perform q i := by
  cases ev with
  | perform q i => exact .inr ⟨q, i, rfl⟩
  | fill pa => exact .inl (.inl ⟨pa, rfl⟩)
  | evict pa => exact .inl (.inr (.inl ⟨pa, rfl⟩))
  | writeBack pa drop => exact .inl (.inr (.inr ⟨pa, drop, rfl⟩))
  | _ => cases h

/-- Performing an entry takes it off one queue, and then has its effect. -/
theorem perform_queues (h : perform s q i = .next t) :
    t = s ∨ ∃ l e d, s.queues[q]? = some l ∧ l[i]? = some e ∧ mayPerform s.cfg l i = true ∧ s.SameMemory d ∧
      t = performEntry d q e ∧ t.queues = s.queues.set q (l.eraseIdx i) := by
  rcases perform_next h with rfl | ⟨x, e, hx, he, may, _, rfl⟩
  · exact .inl rfl
  · refine .inr ⟨x.queue, e, _, getElem?_queues hx, he, may, setProc_sameMemory s q _, rfl, ?_⟩
    rw [(performEntry_sameQueues _ q e).queues, queues_setProc]

end

/-! ## The way of a write to Mem -/

/-- A write of n bytes of v at pa that covers a, a flush queued behind it, and what is queued behind the SFENCE that
follows the flush (R148). -/
structure FlushedWrite where
  a : Nat
  pa : Nat
  n : Nat
  v : W64
  flush : QEntry
  rest : List QEntry

/-- The byte that the write gives address a. -/
def FlushedWrite.byte (w : FlushedWrite) : Byte := w.v.extractLsb' (8 * (w.a - w.pa)) 8

/-- The write covers a in WB memory, the flush is one of the line of a, and nothing behind writes a. -/
structure FlushedWrite.Ok (w : FlushedWrite) (c : Config) : Prop where
  lo : w.pa ≤ w.a
  hi : w.a < w.pa + w.n
  wb : ∀ k, k < w.n → memType c (w.pa + k) = .wb
  flush : w.flush = .cf (lineOf c w.a) ∨ w.flush = .co (lineOf c w.a) ∨ w.flush = .cw (lineOf c w.a)
  silent : ∀ f ∈ w.rest, f.writes w.a = false

/-- How far the byte is, by what its processor's queue holds: everything; the flush and what follows it, the byte being
in Coh; or no entry that writes a, the byte being in Mem too. -/
inductive FlushedWrite.Stage (w : FlushedWrite) (s : State) : List QEntry → Prop where
  | queued : Stage w s (.w w.pa w.n w.v :: w.flush :: .sf :: w.rest)
  | visible (coh : readByte s.coh w.a = w.byte) : Stage w s (w.flush :: .sf :: w.rest)
  | persistent {l : List QEntry} (silent : ∀ f ∈ l, f.writes w.a = false) (coh : readByte s.coh w.a = w.byte)
      (mem : readByte s.mem w.a = w.byte) : Stage w s l

/-- The invariant of the run: the byte is on its way in processor p's queue, and no other queue writes its address. -/
structure FlushedWrite.Persists (w : FlushedWrite) (c : Config) (p : Nat) (s : State) : Prop where
  inv : s.Inv
  cfg : s.cfg = c
  others : ∀ (q : Nat) (l : List QEntry), q ≠ p → s.queues[q]? = some l → ∀ f ∈ l, f.writes w.a = false
  own : ∃ l, s.queues[p]? = some l ∧ w.Stage s l

section

variable {w : FlushedWrite} {c : Config} {s t d : State} {p q i : Nat} {e : QEntry} {l : List QEntry}

/-- While entries stand before an SFENCE marker, one of them is performed next. -/
theorem lt_length_of_mayPerform {before after : List QEntry} (ahead : before ≠ [])
    (may : mayPerform c (before ++ .sf :: after) i = true) : i < before.length := by
  obtain ⟨behind, marker, _⟩ := sfenceSeparates c before after
  by_contra beyond
  rcases Nat.eq_or_lt_of_not_lt beyond with rfl | later
  · simp [marker ahead] at may
  · simp [behind i later] at may

/-- A write blocks the flush of a line it touches. -/
theorem FlushedWrite.Ok.blocks_flush (h : w.Ok c) : blocks c (.w w.pa w.n w.v) w.flush = true := by
  have touches : touchesLine c w.pa w.n (lineOf c w.a) = true := by
    have lo := h.lo
    have hi := h.hi
    have here : w.pa + (w.a - w.pa) = w.a := by omega
    refine (touchesLine_iff ..).mpr ⟨w.a - w.pa, by omega, ?_⟩
    rw [here]
    exact ⟨lineOf_le c w.a, lt_lineOf_add c w.a⟩
  rcases h.flush with eq | eq | eq <;> rw [eq]
  · rfl
  · exact touches
  · exact touches

/-- The write is performed before all that follows it. -/
theorem FlushedWrite.Ok.head_of_queued (h : w.Ok c)
    (may : mayPerform c (.w w.pa w.n w.v :: w.flush :: .sf :: w.rest) i = true) : i = 0 := by
  have early : i < 2 := lt_length_of_mayPerform (before := [.w w.pa w.n w.v, w.flush]) (by simp) may
  have blocked : mayPerform c (.w w.pa w.n w.v :: w.flush :: .sf :: w.rest) 1 = false :=
    mayPerform_eq_false_of_blocks Nat.zero_lt_one rfl rfl h.blocks_flush
  have later : i ≠ 1 := by
    rintro rfl
    cases blocked.symm.trans may
  omega

/-- The flush is performed before the marker and all behind it. -/
theorem FlushedWrite.head_of_visible (may : mayPerform c (w.flush :: .sf :: w.rest) i = true) : i = 0 := by
  have early : i < 1 := lt_length_of_mayPerform (before := [w.flush]) (by simp) may
  omega

/-- Performing the write brings the byte to Coh. -/
theorem FlushedWrite.Ok.coh_of_write (h : w.Ok c) (inv : d.Inv) (p : Nat) :
    readByte (performEntry d p (.w w.pa w.n w.v)).coh w.a = w.byte := by
  have outside : ∀ x ∈ cellsOf w.pa w.n w.v, inApicPage x.1 = false :=
    (forall_mem_cellsOf (inApicPage · = false)).mpr fun k hk =>
      inApicPage_eq_false_of_memType (c := c) (by simp [h.wb k hk])
  rw [performEntry, writeData_of_outside outside, performWrite_cellsOf_coh inv.canonical, if_pos ⟨h.lo, h.hi⟩]
  rfl

/-- Performing the flush leaves the byte of Coh and brings it to Mem. -/
theorem FlushedWrite.Ok.mem_of_flush (h : w.Ok c) (inv : d.Inv) (cfg : d.cfg = c) (p : Nat) :
    readByte (performEntry d p w.flush).coh w.a = readByte d.coh w.a ∧
      readByte (performEntry d p w.flush).mem w.a = readByte d.coh w.a := by
  subst cfg
  have written : d.WrittenBack (performEntry d p w.flush) (lineOf d.cfg w.a) := by
    rcases h.flush with eq | eq | eq <;> rw [eq]
    · exact performFlush_writtenBack inv w.a
    · exact performFlush_writtenBack inv w.a
    · exact performClwb_writtenBack inv w.a
  have mem := written.mem w.a
  rw [if_pos ⟨lineOf_le d.cfg w.a, lt_lineOf_add d.cfg w.a⟩] at mem
  exact ⟨by rw [written.coh], mem⟩

/-- A move that keeps the byte keeps the stage. -/
theorem FlushedWrite.Stage.of_keepsByte (h : w.Stage s l) (keeps : s.KeepsByte w.a t) : w.Stage t l := by
  cases h with
  | queued => exact .queued
  | visible coh => exact .visible (keeps.coh.trans coh)
  | persistent silent coh mem =>
    refine .persistent silent (keeps.coh.trans coh) ?_
    rcases keeps.mem with eq | eq
    · exact eq.trans coh
    · exact eq.trans mem

/-- Performing an entry of the queue itself brings the byte on, or finds it in Mem. -/
theorem FlushedWrite.Stage.perform (ok : w.Ok c) (inv : d.Inv) (cfg : d.cfg = c) (h : w.Stage d l)
    (he : l[i]? = some e) (may : mayPerform c l i = true) (p : Nat) :
    w.Stage (performEntry d p e) (l.eraseIdx i) := by
  cases h with
  | queued =>
    obtain rfl := ok.head_of_queued may
    cases he
    exact .visible (ok.coh_of_write inv p)
  | visible coh =>
    obtain rfl := head_of_visible may
    cases he
    obtain ⟨coh', mem'⟩ := ok.mem_of_flush inv cfg p
    have silent : ∀ f ∈ QEntry.sf :: w.rest, f.writes w.a = false :=
      List.forall_mem_cons.mpr ⟨rfl, ok.silent⟩
    exact .persistent silent (coh'.trans coh) (mem'.trans coh)
  | persistent silent coh mem =>
    have keeps := performEntry_keepsByte inv.canonical p (silent e (List.mem_of_getElem? he))
    exact (Stage.persistent (fun f hf => silent f (List.mem_of_mem_eraseIdx hf)) coh mem).of_keepsByte keeps

/-- Performing an entry of any queue keeps the invariant. -/
theorem FlushedWrite.Persists.perform (ok : w.Ok c) (h : w.Persists c p s) (ht : perform s q i = .next t) :
    w.Persists c p t := by
  have inv : t.Inv := (perform_leads s q i t ht).inv h.inv
  rcases perform_queues ht with rfl | ⟨l, e, d, hl, he, may, same, rfl, queues⟩
  · exact h
  have cfg : d.cfg = c := same.cfg.trans h.cfg
  have invd : d.Inv := same.inv h.inv
  obtain ⟨lp, hlp, stage⟩ := h.own
  have staged : w.Stage d lp := stage.of_keepsByte (same.keepsByte w.a)
  refine ⟨inv, (performEntry_sameQueues d q e).cfg.trans cfg, fun r l' hr hl' => ?others, ?own⟩
  case others =>
    rw [queues, List.getElem?_set] at hl'
    split at hl'
    · rename_i mover
      subst mover
      split at hl' <;> cases hl'
      exact fun f hf => h.others _ l hr hl f (List.mem_of_mem_eraseIdx hf)
    · exact h.others r l' hr hl'
  case own =>
    by_cases mover : q = p
    · subst mover
      cases hl.symm.trans hlp
      refine ⟨l.eraseIdx i, ?_, staged.perform ok invd cfg he (h.cfg ▸ may) q⟩
      rw [queues, List.getElem?_set_self (List.getElem?_eq_some_iff.mp hl).1]
    · have silent := h.others q l mover hl e (List.mem_of_getElem? he)
      refine ⟨lp, ?_, staged.of_keepsByte (performEntry_keepsByte invd.canonical q silent)⟩
      rw [queues, List.getElem?_set_ne mover, hlp]

/-- Every move of the memory system keeps the invariant. -/
theorem FlushedWrite.Persists.doEvent {ev : Event} (ok : w.Ok c) (h : w.Persists c p s) (hev : ev.ofMemory = true)
    (ht : doEvent s ev = .next t) : w.Persists c p t := by
  rcases eq_cacheMove_or_perform hev with caches | ⟨q, i, rfl⟩
  · obtain ⟨same, keeps⟩ := cacheMove_keeps h.inv.canonical caches ht w.a
    obtain ⟨l, hl, stage⟩ := h.own
    exact ⟨(doEvent_leads s ev t ht).inv h.inv, same.cfg.trans h.cfg, same.queues ▸ h.others,
      l, same.queues ▸ hl, stage.of_keepsByte keeps⟩
  · exact h.perform ok ht

theorem FlushedWrite.Persists.runEvents {evs : List Event} (ok : w.Ok c) (h : w.Persists c p s)
    (hevs : ∀ ev ∈ evs, ev.ofMemory = true) (ht : runEvents s evs = some t) : w.Persists c p t := by
  induction evs generalizing s with
  | nil => cases ht; exact h
  | cons ev evs ih =>
    obtain ⟨first, later⟩ := List.forall_mem_cons.mp hevs
    unfold Machine.runEvents at ht
    split at ht
    · rename_i u hu
      exact ih (h.doEvent ok first hu) later ht
    · cases ht
    · cases ht

/-- Once the queue is as short as what stood behind the marker, the byte is in Mem. -/
theorem FlushedWrite.Stage.mem_of_length_le (h : w.Stage s l) (short : l.length ≤ w.rest.length) :
    readByte s.mem w.a = w.byte := by
  cases h with
  | queued => simp at short; omega
  | visible coh => simp at short
  | persistent silent coh mem => exact mem

end

/-- Settles O39: at the start the byte is queued; every move keeps it on its way. -/
theorem flushAndFencePersist : Obligations.FlushAndFencePersist := by
  intro s t evs p a pa n v e rest x y inv hx queue flush lo hi wb silent others hevs ht hy short
  let w : FlushedWrite := ⟨a, pa, n, v, e, rest⟩
  have ok : w.Ok s.cfg := ⟨lo, hi, wb, flush, silent⟩
  have start : w.Persists s.cfg p s := by
    refine ⟨inv, rfl, fun q l hq hl => ?_, x.queue, getElem?_queues hx, queue ▸ .queued⟩
    obtain ⟨z, hz, rfl⟩ := exists_proc_of_getElem?_queues hl
    exact others q z hq hz
  obtain ⟨l, hl, stage⟩ := (start.runEvents ok hevs ht).own
  cases (getElem?_queues hy).symm.trans hl
  exact stage.mem_of_length_le short

end Sys2Proof.Machine
end

section
/-! O1 to O5: the decoder and the encoder are inverse to each other (30_encoding.md). Each reader of the decoder is said
once to be the inverse of its writer; the bytes of an instruction are then taken apart, and put together, field by
field. -/

namespace Sys2Proof

section

variable {env : DecodeEnv} {a : AddrSize} {px : Prefixes} {bs t rest : List Byte} {b : Byte} {i : Instr}
  {mod : BitVec 2} {reg rm : BitVec 3} {m : MemOp}

/-! ## Bytes and fields -/

theorem legacyPrefixOf_toByte (p : LegacyPrefix) : legacyPrefixOf p.toByte = some p := by cases p <;> rfl

theorem legacyPrefixOf_eq_some_iff {p : LegacyPrefix} : legacyPrefixOf b = some p ↔ b = p.toByte := by
  have inverse : ∀ c, (legacyPrefixOf c).all (c == ·.toByte) = true := by decide
  constructor
  · intro h
    simpa [h] using inverse b
  · rintro rfl
    exact legacyPrefixOf_toByte p

theorem rexOf_toByte (r : Rex) : rexOf r.toByte = some r := by
  obtain ⟨w, r, x, b⟩ := r
  revert w r x b
  decide

theorem rexOf_eq_some_iff {r : Rex} : rexOf b = some r ↔ b = r.toByte := by
  have inverse : ∀ c, (rexOf c).all (c == ·.toByte) = true := by decide
  constructor
  · intro h
    simpa [h] using inverse b
  · rintro rfl
    exact rexOf_toByte r

/-- The byte of REX is none of the legacy prefixes. -/
theorem legacyPrefixOf_rexByte (r : Rex) : legacyPrefixOf r.toByte = none := by
  obtain ⟨w, r, x, b⟩ := r
  revert w r x b
  decide

@[simp] theorem modOf_modrmByte (mod : BitVec 2) (reg rm : BitVec 3) : modOf (modrmByte mod reg rm) = mod := by
  revert mod reg rm
  decide

@[simp] theorem regOf_modrmByte (mod : BitVec 2) (reg rm : BitVec 3) : regOf (modrmByte mod reg rm) = reg := by
  revert mod reg rm
  decide

@[simp] theorem rmOf_modrmByte (mod : BitVec 2) (reg rm : BitVec 3) : rmOf (modrmByte mod reg rm) = rm := by
  revert mod reg rm
  decide

theorem modrmByte_fields (b : Byte) : modrmByte (modOf b) (regOf b) (rmOf b) = b := by
  revert b
  decide

theorem sibOf_toByte (s : Sib) : sibOf s.toByte = s := by
  obtain ⟨scale, index, base⟩ := s
  revert scale index base
  decide

theorem toByte_sibOf (b : Byte) : (sibOf b).toByte = b := by
  revert b
  decide

/-! ## Prefixes (R152, R159) -/

/-- The byte of REX, if there is one. -/
def rexBytes (r : Option Rex) : List Byte := (r.map fun r => [r.toByte]).getD []

theorem Prefixes.toBytes_eq (px : Prefixes) : px.toBytes = px.legacy.map LegacyPrefix.toByte ++ rexBytes px.rex := rfl

theorem takeLegacy_bytes (bs : List Byte) : (takeLegacy bs).1.map LegacyPrefix.toByte ++ (takeLegacy bs).2 = bs := by
  induction bs with
  | nil => rfl
  | cons b t ih =>
    unfold takeLegacy
    split
    · rename_i p hp
      simp [ih, legacyPrefixOf_eq_some_iff.mp hp]
    · rfl

theorem takeLegacy_append (ps : List LegacyPrefix) (hb : legacyPrefixOf b = none) :
    takeLegacy (ps.map LegacyPrefix.toByte ++ b :: t) = (ps, b :: t) := by
  induction ps with
  | nil => simp [takeLegacy, hb]
  | cons p ps ih => simp [takeLegacy, legacyPrefixOf_toByte, ih]

theorem takeRex_bytes (long : Bool) (bs : List Byte) : rexBytes (takeRex long bs).1 ++ (takeRex long bs).2 = bs := by
  unfold takeRex
  split
  · rfl
  · split
    · split
      · rename_i r hr
        simp [rexBytes, rexOf_eq_some_iff.mp hr]
      · rfl
    · rfl

/-- REX is read in 64-bit mode only (R159). -/
theorem takeRex_of_not_long (bs : List Byte) : (takeRex false bs).1 = none := by cases bs <;> rfl

/-- REX before the opcode is read back, and where there is none the opcode byte is not taken for one. -/
theorem takeRex_append (h : px.wf env = true) :
    takeRex env.long (rexBytes px.rex ++ 0x0F#8 :: t) = (px.rex, 0x0F#8 :: t) := by
  cases hr : px.rex with
  | none => cases hl : env.long <;> rfl
  | some r =>
    have long : env.long = true := by simpa [Prefixes.wf, hr] using h
    simp [rexBytes, takeRex, long, rexOf_toByte]

theorem takeLegacy_prefixed (px : Prefixes) (t : List Byte) :
    takeLegacy (px.toBytes ++ 0x0F#8 :: t) = (px.legacy, rexBytes px.rex ++ 0x0F#8 :: t) := by
  rw [Prefixes.toBytes_eq, List.append_assoc]
  cases px.rex with
  | none => exact takeLegacy_append _ rfl
  | some r => exact takeLegacy_append _ (legacyPrefixOf_rexByte r)

/-- Whatever the bytes, decoding goes on behind well-formed prefixes. -/
theorem decode_splits (env : DecodeEnv) (bs : List Byte) :
    ∃ px t, px.wf env = true ∧ bs = px.toBytes ++ t ∧
      decode env bs = if 15 ≤ px.length then .tooLong
        else finishIncomplete bs.length (decodeOpcode (addrSizeOf env px) px t) := by
  refine ⟨⟨(takeLegacy bs).1, (takeRex env.long (takeLegacy bs).2).1⟩, _, ?wf, ?bytes, rfl⟩
  case wf => cases hl : env.long <;> simp [Prefixes.wf, hl, takeRex_of_not_long]
  case bytes => rw [Prefixes.toBytes_eq, List.append_assoc, takeRex_bytes, takeLegacy_bytes]

/-- Well-formed prefixes before the opcode are the ones decoding finds. -/
theorem decode_prefixed (h : px.wf env = true) (t : List Byte) :
    decode env (px.toBytes ++ 0x0F#8 :: t) = if 15 ≤ px.length then .tooLong
      else finishIncomplete (px.toBytes ++ 0x0F#8 :: t).length
        (decodeOpcode (addrSizeOf env px) px (0x0F#8 :: t)) := by
  simp only [decode, takeLegacy_prefixed, takeRex_append h]

/-! ## The memory operand (R157) -/

theorem MemOp.wf_iff : m.wf a = true ↔
    m.mod ≠ 3#2 ∧ m.sib.isSome = sibFollows a m.rm ∧ m.disp.length = dispLen a m.mod m.rm m.sib := by
  simp [MemOp.wf, and_assoc]

/-- The SIB byte, if there is one. -/
def sibBytes (s : Option Sib) : List Byte := (s.map fun s => [s.toByte]).getD []

theorem MemOp.toBytes_eq (m : MemOp) : m.toBytes = sibBytes m.sib ++ m.disp.toBytes := rfl

theorem takeSib_eq_some_iff {sib : Option Sib} :
    takeSib a rm bs = some (sib, t) ↔ sib.isSome = sibFollows a rm ∧ bs = sibBytes sib ++ t := by
  unfold takeSib
  cases sibFollows a rm with
  | false => cases sib <;> simp [sibBytes]
  | true =>
    cases bs with
    | nil => cases sib <;> simp [sibBytes]
    | cons b bs =>
      cases sib with
      | none => simp
      | some s =>
        have inverse : sibOf b = s ↔ b = s.toByte := ⟨fun h => h ▸ (toByte_sibOf b).symm, fun h => h ▸ sibOf_toByte s⟩
        simp [sibBytes, inverse]

/-- The bytes of a word, put together again (R70). -/
theorem bytes_join16 (v : W16) : v.extractLsb' 8 8 ++ v.extractLsb' 0 8 = v :=
  (BitVec.extractLsb'_append_extractLsb'_eq_extractLsb' (start₁ := 0) rfl).trans BitVec.extractLsb'_eq_self

/-- The bytes of a doubleword, put together again (R70). -/
theorem bytes_join32 (v : W32) :
    v.extractLsb' 24 8 ++ v.extractLsb' 16 8 ++ v.extractLsb' 8 8 ++ v.extractLsb' 0 8 = v := by
  have upper : v.extractLsb' 24 8 ++ v.extractLsb' 16 8 = v.extractLsb' 16 16 :=
    BitVec.extractLsb'_append_extractLsb'_eq_extractLsb' rfl
  have three : v.extractLsb' 16 16 ++ v.extractLsb' 8 8 = v.extractLsb' 8 24 :=
    BitVec.extractLsb'_append_extractLsb'_eq_extractLsb' rfl
  have all : v.extractLsb' 8 24 ++ v.extractLsb' 0 8 = v :=
    (BitVec.extractLsb'_append_extractLsb'_eq_extractLsb' (start₁ := 0) rfl).trans BitVec.extractLsb'_eq_self
  rw [upper, three, all]

theorem toBytes_d16 (b1 b0 : Byte) : (Disp.d16 (b1 ++ b0)).toBytes = [b0, b1] := by
  have low : (b1 ++ b0).extractLsb' 0 8 = b0 := BitVec.extractLsb'_append_eq_right
  have high : (b1 ++ b0).extractLsb' 8 8 = b1 := BitVec.extractLsb'_append_eq_left
  exact congrArg₂ (fun x y => [x, y]) low high

theorem toBytes_d32 (b3 b2 b1 b0 : Byte) : (Disp.d32 (b3 ++ b2 ++ b1 ++ b0)).toBytes = [b0, b1, b2, b3] := by
  have peel {n : Nat} (hi : BitVec n) (lo : Byte) {k : Nat} (hk : 8 ≤ k) :
      (hi ++ lo).extractLsb' k 8 = hi.extractLsb' (k - 8) 8 := BitVec.extractLsb'_append_eq_of_le hk
  have byte0 : (b3 ++ b2 ++ b1 ++ b0).extractLsb' 0 8 = b0 := BitVec.extractLsb'_append_eq_right
  have byte1 : (b3 ++ b2 ++ b1 ++ b0).extractLsb' 8 8 = b1 :=
    (peel _ b0 (by decide)).trans BitVec.extractLsb'_append_eq_right
  have byte2 : (b3 ++ b2 ++ b1 ++ b0).extractLsb' 16 8 = b2 :=
    (peel _ b0 (by decide)).trans ((peel _ b1 (by decide)).trans BitVec.extractLsb'_append_eq_right)
  have byte3 : (b3 ++ b2 ++ b1 ++ b0).extractLsb' 24 8 = b3 :=
    (peel _ b0 (by decide)).trans ((peel _ b1 (by decide)).trans BitVec.extractLsb'_append_eq_left)
  simp only [Disp.toBytes, byte0, byte1, byte2, byte3]

theorem takeDisp_eq_some_iff {n : Nat} {d : Disp} :
    takeDisp n bs = some (d, t) ↔ d.length = n ∧ bs = d.toBytes ++ t := by
  constructor
  · intro h
    unfold takeDisp at h
    split at h <;> cases h
    · exact ⟨rfl, rfl⟩
    · exact ⟨rfl, rfl⟩
    · exact ⟨rfl, (toBytes_d16 ..).symm ▸ rfl⟩
    · exact ⟨rfl, (toBytes_d32 ..).symm ▸ rfl⟩
  · rintro ⟨rfl, rfl⟩
    cases d with
    | none | d8 v => rfl
    | d16 v => exact congrArg (fun w => some (Disp.d16 w, t)) (bytes_join16 v)
    | d32 v => exact congrArg (fun w => some (Disp.d32 w, t)) (bytes_join32 v)

theorem takeMemOp_eq_some_iff (memory : mod ≠ 3#2) : takeMemOp a mod rm bs = some (m, t) ↔
    m.wf a = true ∧ m.mod = mod ∧ m.rm = rm ∧ bs = m.toBytes ++ t := by
  constructor
  · intro h
    unfold takeMemOp at h
    split at h
    · cases h
    rename_i sib u hs
    split at h
    · cases h
    rename_i d v hd
    cases h
    obtain ⟨sib_follows, rfl⟩ := takeSib_eq_some_iff.mp hs
    obtain ⟨disp_length, rfl⟩ := takeDisp_eq_some_iff.mp hd
    exact ⟨MemOp.wf_iff.mpr ⟨memory, sib_follows, disp_length⟩, rfl, rfl, (List.append_assoc ..).symm⟩
  · rintro ⟨wf, rfl, rfl, rfl⟩
    obtain ⟨_, sib_follows, disp_length⟩ := MemOp.wf_iff.mp wf
    have hs : takeSib a m.rm (m.toBytes ++ t) = some (m.sib, m.disp.toBytes ++ t) :=
      takeSib_eq_some_iff.mpr ⟨sib_follows, List.append_assoc ..⟩
    have hd := takeDisp_eq_some_iff.mpr ⟨disp_length, rfl (a := m.disp.toBytes ++ t)⟩
    simp only [takeMemOp, hs, hd]

/-! ## The rows of R154 -/

/-- An instruction that the condition c keeps from being one of the six. -/
theorem unless_eq_inl_iff {c : Prop} [Decidable c] {o : Outside} {j : Instr} :
    (if c then .inr o else .inl j : Instr ⊕ Outside) = .inl i ↔ ¬ c ∧ i = j := by
  split <;> simp [*, eq_comm]

/-- Rows 1 to 3. -/
theorem memRow_eq_inl_iff : memRow px reg m = .inl i ↔
    (reg = 7#3 ∧ px.has .opSize = false ∧ px.has .repne = false ∧ px.has .rep = false ∧ i = .clflush px m) ∨
    (reg = 7#3 ∧ px.has .opSize = true ∧ i = .clflushopt px m) ∨
    (reg = 6#3 ∧ px.has .opSize = true ∧ px.has .repne = false ∧ px.has .rep = false ∧ i = .clwb px m) := by
  unfold memRow
  by_cases seven : reg = 7#3
  · cases px.has .opSize <;> simp [seven, unless_eq_inl_iff, and_assoc, eq_comm (a := i)]
  by_cases six : reg = 6#3
  · cases px.has .opSize <;> simp [six, unless_eq_inl_iff, and_assoc]
  · simp [seven, six]

/-- Rows 4 to 6. -/
theorem regRow_eq_inl_iff : regRow px reg rm = .inl i ↔
    px.has .opSize = false ∧ px.has .repne = false ∧ px.has .rep = false ∧
      ((reg = 5#3 ∧ i = .lfence px rm) ∨ (reg = 6#3 ∧ i = .mfence px rm) ∨ (reg = 7#3 ∧ i = .sfence px rm)) := by
  unfold regRow
  by_cases five : reg = 5#3
  · simp [five, unless_eq_inl_iff, and_assoc]
  by_cases six : reg = 6#3
  · simp [six, unless_eq_inl_iff, and_assoc]
  by_cases seven : reg = 7#3
  · simp [seven, unless_eq_inl_iff, and_assoc]
  · simp [five, six, seven]

/-! ## Decoding -/

theorem finishDecode_eq_ok_iff {len : Nat} {row : Instr ⊕ Outside} :
    finishDecode len row bs = .ok i t ↔ len ≤ 15 ∧ row = .inl i ∧ bs = t := by
  unfold finishDecode
  split
  · simp only [reduceCtorEq, false_iff]
    omega
  · have short : len ≤ 15 := by omega
    cases row <;> simp [short]

theorem finishIncomplete_eq_ok_iff {n : Nat} {d : Decoded} : finishIncomplete n d = .ok i t ↔ d = .ok i t := by
  cases d with
  | incomplete => simp only [finishIncomplete]; split <;> simp
  | ok | tooLong | outside => rfl

/-- From ModR/M on: a register form or a memory form, by mod (R153, R154). -/
theorem decodeModrm_eq_ok_iff : decodeModrm a px b bs = .ok i t ↔
    (∃ reg rm, b = modrmByte 3#2 reg rm ∧ bs = t ∧ px.length + 3 ≤ 15 ∧ regRow px reg rm = .inl i) ∨
    (∃ reg m, b = modrmByte m.mod reg m.rm ∧ m.wf a = true ∧ bs = m.toBytes ++ t ∧ px.length + 3 + m.length ≤ 15 ∧
      memRow px reg m = .inl i) := by
  constructor
  · intro h
    unfold decodeModrm at h
    split at h
    · rename_i register
      obtain ⟨short, row, rfl⟩ := finishDecode_eq_ok_iff.mp h
      exact .inl ⟨_, _, by rw [← register, modrmByte_fields], rfl, short, row⟩
    · rename_i memory
      split at h
      · cases h
      · rename_i m u hm
        obtain ⟨wf, hmod, hrm, rfl⟩ := (takeMemOp_eq_some_iff memory).mp hm
        obtain ⟨short, row, rfl⟩ := finishDecode_eq_ok_iff.mp h
        exact .inr ⟨_, m, by rw [hmod, hrm, modrmByte_fields], wf, rfl, short, row⟩
  · rintro (⟨reg, rm, rfl, rfl, short, row⟩ | ⟨reg, m, rfl, wf, rfl, short, row⟩)
    · simp [decodeModrm, finishDecode_eq_ok_iff, short, row]
    · have memory := (MemOp.wf_iff.mp wf).1
      have operand := (takeMemOp_eq_some_iff memory).mpr ⟨wf, rfl, rfl, rfl (a := m.toBytes ++ t)⟩
      simp [decodeModrm, memory, operand, finishDecode_eq_ok_iff, short, row]

theorem decodeOpcode_eq_ok_iff : decodeOpcode a px bs = .ok i rest ↔
    ∃ b t, bs = 0x0F#8 :: 0xAE#8 :: b :: t ∧ decodeModrm a px b t = .ok i rest := by
  constructor
  · intro h
    unfold decodeOpcode at h
    split at h
    · cases h
    split_ifs at h with first
    split at h
    · cases h
    split_ifs at h with second
    split at h
    · cases h
    subst first second
    exact ⟨_, _, rfl, h⟩
  · rintro ⟨b, t, rfl, h⟩
    exact h

/-- Behind well-formed prefixes, decoding is decoding from ModR/M on. -/
theorem decode_prefixed_eq_ok_iff (wf : px.wf env = true) :
    decode env (px.toBytes ++ 0x0F#8 :: 0xAE#8 :: b :: t) = .ok i rest ↔
      decodeModrm (addrSizeOf env px) px b t = .ok i rest := by
  rw [decode_prefixed wf]
  split
  · rename_i long
    simp only [reduceCtorEq, false_iff, decodeModrm_eq_ok_iff]
    rintro (⟨_, _, _, _, short, _⟩ | ⟨_, _, _, _, _, short, _⟩) <;> omega
  · exact finishIncomplete_eq_ok_iff

/-- The code of an instruction as the rows of R154 give it: a register form or a memory form. -/
inductive Instr.Code (env : DecodeEnv) (i : Instr) : List Byte → Prop where
  | reg {px : Prefixes} {reg rm : BitVec 3} (prefixes : px.wf env = true) (short : px.length + 3 ≤ 15)
      (row : regRow px reg rm = .inl i) : Code env i (encodeReg px reg rm)
  | mem {px : Prefixes} {reg : BitVec 3} {m : MemOp} (prefixes : px.wf env = true)
      (operand : m.wf (addrSizeOf env px) = true) (short : px.length + 3 + m.length ≤ 15)
      (row : memRow px reg m = .inl i) : Code env i (encodeMem px reg m)

/-- What decodes begins with the code of the instruction, and with nothing else. -/
theorem decode_eq_ok_iff : decode env bs = .ok i rest ↔ ∃ code, i.Code env code ∧ bs = code ++ rest := by
  constructor
  · intro h
    obtain ⟨px, t, wf, rfl, answer⟩ := decode_splits env bs
    rw [answer] at h
    split at h
    · cases h
    obtain ⟨b, u, rfl, modrm⟩ := decodeOpcode_eq_ok_iff.mp (finishIncomplete_eq_ok_iff.mp h)
    rcases decodeModrm_eq_ok_iff.mp modrm with ⟨reg, rm, rfl, rfl, short, row⟩ | ⟨reg, m, rfl, operand, rfl, short, row⟩
    · exact ⟨_, .reg wf short row, by simp [encodeReg]⟩
    · exact ⟨_, .mem wf operand short row, by simp [encodeMem]⟩
  · rintro ⟨_, code, rfl⟩
    cases code with
    | reg wf short row =>
      simpa [encodeReg] using (decode_prefixed_eq_ok_iff wf).mpr
        (decodeModrm_eq_ok_iff.mpr (.inl ⟨_, _, rfl, rfl, short, row⟩))
    | mem wf operand short row =>
      simpa [encodeMem] using (decode_prefixed_eq_ok_iff wf).mpr
        (decodeModrm_eq_ok_iff.mpr (.inr ⟨_, _, rfl, operand, rfl, short, row⟩))

/-- A well-formed instruction has one code, which is its encoding; any other has none. -/
theorem Instr.code_iff {code : List Byte} : i.Code env code ↔ i.wf env = true ∧ code = encode i := by
  constructor
  · rintro (⟨wf, short, row⟩ | ⟨wf, operand, short, row⟩)
    · obtain ⟨h66, hf2, hf3, ⟨rfl, rfl⟩ | ⟨rfl, rfl⟩ | ⟨rfl, rfl⟩⟩ := regRow_eq_inl_iff.mp row <;>
        simp [Instr.wf, Instr.length, encode, *]
    · obtain ⟨rfl, h66, hf2, hf3, rfl⟩ | ⟨rfl, h66, rfl⟩ | ⟨rfl, h66, hf2, hf3, rfl⟩ := memRow_eq_inl_iff.mp row <;>
        simp [Instr.wf, Instr.length, encode, *]
  · rintro ⟨wf, rfl⟩
    cases i <;> simp only [Instr.wf, Bool.and_eq_true, Bool.not_eq_true', decide_eq_true_eq, and_assoc] at wf
    case clflush | clwb =>
      obtain ⟨prefixes, operand, h66, hf2, hf3, short⟩ := wf
      exact .mem prefixes operand short (memRow_eq_inl_iff.mpr (by simp [h66, hf2, hf3]))
    case clflushopt =>
      obtain ⟨prefixes, operand, h66, short⟩ := wf
      exact .mem prefixes operand short (memRow_eq_inl_iff.mpr (by simp [h66]))
    case lfence | mfence | sfence =>
      obtain ⟨prefixes, h66, hf2, hf3, short⟩ := wf
      exact .reg prefixes short (regRow_eq_inl_iff.mpr (by simp [h66, hf2, hf3]))

end

/-- Settles O1: a well-formed instruction's encoding is its code, and codes decode. -/
theorem decodeOfEncode : Obligations.DecodeOfEncode := by
  intro env i rest wf
  exact decode_eq_ok_iff.mpr ⟨_, Instr.code_iff.mpr ⟨wf, rfl⟩, rfl⟩

/-- Settles O2: what decodes begins with the instruction's code, which is its encoding. -/
theorem encodeOfDecode : Obligations.EncodeOfDecode := by
  intro env bytes rest i h
  obtain ⟨code, hc, rfl⟩ := decode_eq_ok_iff.mp h
  obtain ⟨wf, rfl⟩ := Instr.code_iff.mp hc
  exact ⟨wf, rfl⟩

/-- Settles O4: behind the prefixes, each combination is in no row of R154. -/
theorem undefinedCombinationsDoNotDecode : Obligations.UndefinedCombinationsDoNotDecode := by
  intro env legacy b tail i rest p66 f reg memory undefined decoded
  have wf : Prefixes.wf env ⟨legacy, none⟩ = true := by simp [Prefixes.wf]
  have bytes : Prefixes.toBytes ⟨legacy, none⟩ = legacy.map LegacyPrefix.toByte := by simp [Prefixes.toBytes]
  rw [← bytes, decode_prefixed_eq_ok_iff wf] at decoded
  rcases decodeModrm_eq_ok_iff.mp decoded with ⟨r, rm, rfl, _, _, row⟩ | ⟨r, m, rfl, operand, _, _, row⟩
  · obtain ⟨h66, hf2, hf3, rows⟩ := regRow_eq_inl_iff.mp row
    have register : ¬ memory := not_not_intro (modOf_modrmByte 3#2 r rm)
    have no_p66 : p66 = false := h66
    have no_f : f = false := Bool.or_eq_false_iff.mpr ⟨hf2, hf3⟩
    have high : 5 ≤ reg := by
      rw [show reg = r.toNat from congrArg BitVec.toNat (regOf_modrmByte 3#2 r rm)]
      obtain ⟨rfl, _⟩ | ⟨rfl, _⟩ | ⟨rfl, _⟩ := rows <;> decide
    rcases undefined with ⟨is_memory, _⟩ | ⟨_, low | has_p66 | has_f⟩
    · exact register is_memory
    · omega
    · exact Bool.false_ne_true (no_p66.symm.trans has_p66)
    · exact Bool.false_ne_true (no_f.symm.trans has_f)
  · have is_memory : memory := fun eq =>
      (MemOp.wf_iff.mp operand).1 ((modOf_modrmByte m.mod r m.rm).symm.trans eq)
    have reg_eq : reg = r.toNat := congrArg BitVec.toNat (regOf_modrmByte m.mod r m.rm)
    rcases undefined with ⟨_, combination⟩ | ⟨register, _⟩
    case inr => exact register is_memory
    obtain ⟨rfl, h66, hf2, hf3, _⟩ | ⟨rfl, h66, _⟩ | ⟨rfl, h66, hf2, hf3, _⟩ := memRow_eq_inl_iff.mp row
    · have no_f : f = false := Bool.or_eq_false_iff.mpr ⟨hf2, hf3⟩
      simp [reg_eq, no_f] at combination
    · have p66_set : p66 = true := h66
      simp [reg_eq, p66_set] at combination
    · have p66_set : p66 = true := h66
      have no_f : f = false := Bool.or_eq_false_iff.mpr ⟨hf2, hf3⟩
      simp [reg_eq, p66_set, no_f] at combination

theorem fence_wf (env : DecodeEnv) (rm : BitVec 3) : (Instr.lfence ⟨[], none⟩ rm).wf env = true ∧
    (Instr.mfence ⟨[], none⟩ rm).wf env = true ∧ (Instr.sfence ⟨[], none⟩ rm).wf env = true := by
  simp [Instr.wf, Prefixes.wf, Prefixes.has, Instr.length, Prefixes.length]

/-- Settles O3: the eight codes of a fence are its encodings, and its meaning does not look at r/m. -/
theorem fenceAliases : Obligations.FenceAliases := by
  intro env px rm s rest
  have modrm : ∀ r : BitVec 3, 0xE8#8 + r.setWidth 8 = modrmByte 3#2 5#3 r ∧
      0xF0#8 + r.setWidth 8 = modrmByte 3#2 6#3 r ∧ 0xF8#8 + r.setWidth 8 = modrmByte 3#2 7#3 r := by decide
  obtain ⟨lfence, mfence, sfence⟩ := fence_wf env rm
  obtain ⟨e8, f0, f8⟩ := modrm rm
  rw [e8, f0, f8]
  exact ⟨decodeOfEncode env _ rest lfence, decodeOfEncode env _ rest mfence, decodeOfEncode env _ rest sfence,
    rfl, rfl, rfl, rfl, rfl, rfl⟩

/-- Settles O5, by running the decoder on each of the words. -/
theorem specWordsDecode : Obligations.SpecWordsDecode := by
  unfold Obligations.SpecWordsDecode
  decide

end Sys2Proof
end

section
/-! O12, O24: a fence with prefixes the source leaves undefined, and the step of a processor whose bytes decode. -/

namespace Sys2Proof.Machine

open Sys2Proof

section

variable {s t : State} {p n : Nat} {x : Proc} {i : Instr}

/-! ## Prefixes of a fence -/

/-- The prefixes that the source leaves undefined are looked at before LOCK and the feature flag. -/
theorem fenceStep_of_prefixPresent {px : Prefixes} (hx : s.procs[s.cur]? = some x)
    (present : fencePrefixPresent px = true) (heeded : s.cfg.fenceIgnoresPrefixes = false) (feature : Bool)
    (effect : Proc → State) :
    fenceStep s px feature effect = .refused .fencePrefix := by
  simp [fenceStep, hx, present, heeded]

/-! ## A processor's move -/

/-- The move a step makes is taken off the agenda or is the rotation's, and counted; all else stays (log 6). -/
theorem chooseMove_snd (s : State) :
    (chooseMove s).2 =
      { s with agenda := (chooseMove s).2.agenda, turn := (chooseMove s).2.turn, tick := s.tick + 1 } := by
  unfold chooseMove
  split <;> rfl

/-- A processor that executes instructions runs one. -/
theorem State.Runs.runProc_eq (h : s.Runs p x) :
    runProc s p = contain { s with cur := p } p (runInstr { s with cur := p } p x) := by
  obtain ⟨hx, running, ended, refusal, going, free⟩ := h
  simp [runProc, hx, runnable_iff.mpr ⟨running, ended, refusal⟩, going, free]

/-- Where no abstract step stands at pc, the instruction is the one the bytes there decode to (R163, R240). -/
theorem runInstr_of_decode {rest : List Byte} (bare : ∀ e ∈ x.program, e.pc ≠ x.pc)
    (decoded : decode x.decodeEnv (fetchBytes s p x 0 15).1 = .ok i rest) :
    runInstr s p x = endAtWrap p x i.length (exec i s) := by
  have none_placed : x.program.find? (·.pc == x.pc) = none := by simpa using bare
  have fetched : fetchInstr s p x = .instr i := by simp [fetchInstr, decoded]
  simp [runInstr, none_placed, fetched]

theorem pcFits_iff : pcFits x n = true ↔
    if x.mode = .mode64 then x.pc.toNat + n < 2 ^ 64
    else x.pc.toNat + n < 2 ^ 32 ∧ (x.pc - x.segs.cs.base).toNat % 2 ^ 32 + n < 2 ^ 32 := by
  unfold pcFits codeOffset
  split <;> simp

/-- An instruction that has not moved pc does not end the run, wherever it stands (U17, log 12). -/
theorem endAtWrap_of_pc (stays : ∀ y, t.procs[p]? = some y → y.pc = x.pc) :
    endAtWrap p x n (.next t) = .next t := by
  cases ht : t.procs[p]? with
  | none => simp [endAtWrap, ht]
  | some y => simp [endAtWrap, ht, stays y ht]

end

/-- Settles O12: each of the three is `fenceStep`. -/
theorem fencePrefixesAreRefused : Obligations.FencePrefixesAreRefused := by
  intro s x px rm hx present heeded
  have refused := fenceStep_of_prefixPresent hx present heeded
  exact ⟨refused .., refused .., refused ..⟩

/-- Settles O24: the move is the processor's, its instruction the decoded one, which is well-formed by O2. -/
theorem stepRunsDecodedInstruction : Obligations.StepRunsDecodedInstruction := by
  intro s u p x i rest chosen runs bare decoded
  have step_eq : step s = contain { u with cur := p } p (endAtWrap p x i.length (exec i { u with cur := p })) := by
    rw [step, chosen, ← runInstr_of_decode bare decoded, ← runs.runProc_eq]
    rfl
  refine ⟨step_eq, fun fits => ?fits, fun t effect stays => ?waits, (encodeOfDecode _ _ _ _ decoded).1, ?moved⟩
  case fits => rw [step_eq, endAtWrap_of_fits (pcFits_iff.mpr fits)]
  case waits => rw [step_eq, effect, endAtWrap_of_pc stays]; rfl
  case moved =>
    have moved := chooseMove_snd s
    rwa [chosen] at moved

end Sys2Proof.Machine
end

section
/-! O6, O7, O8, O13: the entry a cache-line instruction queues (R190 to R192), and what the six leave unchanged. -/

namespace Sys2Proof.Machine

open Sys2Proof

section

variable {s t : State} {p len pa : Nat} {x y : Proc} {px : Prefixes} {m : MemOp} {la : W64} {ts : List AddrSpace}

/-! ## A cache-line instruction that completes -/

/-- The last stage of R193, where none of the checks before it has raised. -/
theorem cacheLineStep_completes {ud eo : Bool} (defined : ud = false)
    (hla : operandLinear s.cfg x px m len eo = .ok la) (ht : translate s p x la.toNat .read = .ok pa ts)
    (entry : Nat → QEntry) :
    cacheLineStep s p x px m len ud eo entry = State.setProc { s with tables := ts } p
      { x with
        queue := x.queue ++ [entry (lineOf s.cfg pa)]
        pc := x.sized (x.pc + BitVec.ofNat 64 len) } := by
  simp only [cacheLineStep, defined, hla, ht]
  rfl

theorem exec_clflush (hx : s.procs[s.cur]? = some x) :
    exec (.clflush px m) s = .next (cacheLineStep s s.cur x px m (px.length + 3 + m.length)
      (px.has .lock || !s.cfg.hasClfsh) true .cf) := by
  simp only [exec, execClflush, hx, Instr.length]

theorem exec_clflushopt (hx : s.procs[s.cur]? = some x) :
    exec (.clflushopt px m) s = .next (cacheLineStep s s.cur x px m (px.length + 3 + m.length)
      (px.has .lock || px.has .repne || px.has .rep || !s.cfg.hasClflushopt) true .co) := by
  simp only [exec, execClflushopt, hx, Instr.length]

theorem exec_clwb (hx : s.procs[s.cur]? = some x) :
    exec (.clwb px m) s = .next (cacheLineStep s s.cur x px m (px.length + 3 + m.length)
      (px.has .lock || !s.cfg.hasClwb) s.cfg.clwbExecOnlyOk .cw) := by
  simp only [exec, execClwb, hx, Instr.length]

/-! ## What one of the six can change -/

/-- What one of the six can do to its own processor: pc, the record of a fault and at most one entry at the tail of
Q_p. -/
def Proc.QueuesAtMostOne (x y : Proc) : Prop :=
  y = { x with pc := y.pc, queue := y.queue, ended := y.ended } ∧ ∃ l, y.queue = x.queue ++ l ∧ l.length ≤ 1

theorem Proc.QueuesAtMostOne.refl (x : Proc) : x.QueuesAtMostOne x := ⟨rfl, [], by simp, by simp⟩

theorem Proc.QueuesAtMostOne.raised (x : Proc) (e : Option FaultRecord) : x.QueuesAtMostOne { x with ended := e } :=
  ⟨rfl, [], by simp, by simp⟩

theorem Proc.QueuesAtMostOne.advance (h : x.QueuesAtMostOne y) (n : Nat) : x.QueuesAtMostOne (y.advance n) := by
  obtain ⟨same, l, queue, short⟩ := h
  exact ⟨by rw [same]; rfl, l, queue, short⟩

theorem Proc.QueuesAtMostOne.enqueued (x : Proc) (e : QEntry) : x.QueuesAtMostOne (x.enqueue e) :=
  ⟨rfl, [e], rfl, by simp⟩

/-- State t is s with its executing processor changed as one of the six may, and with tables of its own. -/
def State.QueuesAtMostOne (s t : State) : Prop :=
  ∃ x y ts, s.procs[s.cur]? = some x ∧ x.QueuesAtMostOne y ∧ t = State.setProc { s with tables := ts } s.cur y

/-- An instruction that waits leaves the state as it is. -/
theorem State.QueuesAtMostOne.waits (hx : s.procs[s.cur]? = some x) : s.QueuesAtMostOne s := by
  refine ⟨x, x, s.tables, hx, .refl x, ?_⟩
  obtain ⟨inRange, rfl⟩ := List.getElem?_eq_some_iff.mp hx
  rw [State.setProc, List.set_getElem_self]

theorem cacheLineStep_queuesAtMostOne (hx : s.procs[s.cur]? = some x) (ud eo : Bool) (entry : Nat → QEntry) :
    s.QueuesAtMostOne (cacheLineStep s s.cur x px m len ud eo entry) := by
  rcases cacheLineStep_cases s s.cur x px m len ud eo entry with ⟨ts, k, c, raised⟩ | ⟨la, pa, ts, _, _, _, done⟩
  · exact ⟨x, _, ts, hx, .raised x _, raised⟩
  · exact ⟨x, _, ts, hx, (Proc.QueuesAtMostOne.enqueued x _).advance len, done⟩

/-- A fence raises or has its effect. -/
theorem fenceStep_queuesAtMostOne {feature : Bool} {effect : Proc → State}
    (h : fenceStep s px feature effect = .next t)
    (allowed : ∀ x, s.procs[s.cur]? = some x → s.QueuesAtMostOne (effect x)) : s.QueuesAtMostOne t := by
  obtain ⟨x, hx, _, ⟨_, rfl⟩ | ⟨_, _, rfl⟩⟩ := fenceStep_next h
  · exact ⟨x, _, s.tables, hx, .raised x _, rfl⟩
  · exact allowed x hx

/-- What each of the six can do (R193, R220, R221, R222). -/
theorem exec_queuesAtMostOne {i : Instr} (h : exec i s = .next t) : s.QueuesAtMostOne t := by
  have cacheLine {px : Prefixes} {m : MemOp} (hi : memoryForm i = some (px, m)) : s.QueuesAtMostOne t := by
    obtain ⟨x, hx⟩ := exists_proc_of_exec h
    obtain ⟨entry, he⟩ := exec_of_memoryForm hi hx
    rw [he] at h
    cases h
    exact cacheLineStep_queuesAtMostOne hx ..
  cases i with
  | clflush | clflushopt | clwb => exact cacheLine rfl
  | lfence =>
    exact fenceStep_queuesAtMostOne h fun x hx =>
      ⟨x, _, s.tables, hx, (Proc.QueuesAtMostOne.refl x).advance _, rfl⟩
  | mfence =>
    refine fenceStep_queuesAtMostOne h fun x hx => ?_
    split
    · exact ⟨x, _, s.tables, hx, (Proc.QueuesAtMostOne.refl x).advance _, rfl⟩
    · exact .waits hx
  | sfence =>
    exact fenceStep_queuesAtMostOne h fun x hx =>
      ⟨x, _, s.tables, hx, (Proc.QueuesAtMostOne.enqueued x _).advance _, rfl⟩

end

/-- Settles O13: the executing processor and the tables are replaced, and nothing else. -/
theorem sixInstructionsFrame : Obligations.SixInstructionsFrame := by
  intro i s t h
  obtain ⟨x, y, ts, hx, ⟨same, l, queue, short⟩, rfl⟩ := exec_queuesAtMostOne h
  exact ⟨rfl, fun _ => ⟨rfl, rfl⟩, fun q other => State.setProc_other { s with tables := ts } other y,
    x, y, l, hx, State.setProc_self (s := { s with tables := ts }) hx y, same, queue, short⟩

/-- Settles O6: no condition of #UD holds, so the last stage is reached. -/
theorem clflushQueuesItsLine : Obligations.ClflushQueuesItsLine := by
  intro s x px m la pa t hx lock clfsh hla ht
  rw [exec_clflush hx, cacheLineStep_completes (by simp [lock, clfsh]) hla ht]

/-- Settles O7: F2H and F3H are conditions of #UD as well (R281). -/
theorem clflushoptQueuesItsLine : Obligations.ClflushoptQueuesItsLine := by
  intro s x px m la pa t hx lock repne rep feature hla ht
  rw [exec_clflushopt hx, cacheLineStep_completes (by simp [lock, repne, rep, feature]) hla ht]

/-- Settles O8: whether an execute-only segment is allowed is CLWB_EXEC_ONLY_OK's to say (R84). -/
theorem clwbQueuesItsLine : Obligations.ClwbQueuesItsLine := by
  intro s x px m la pa t hx lock clwb hla ht
  rw [exec_clwb hx, cacheLineStep_completes (by simp [lock, clwb]) hla ht]

end Sys2Proof.Machine
end

section
/-! O9, O10, O11: the effect of a fence that completes or waits (R220 to R222). -/

namespace Sys2Proof.Machine

open Sys2Proof

/-- A fence that is neither refused (R161 (f)) nor undefined (R281) has its effect. -/
theorem fenceStep_completes {s : State} {x : Proc} {px : Prefixes} {feature : Bool}
    (hx : s.procs[s.cur]? = some x) (lock : px.has .lock = false) (available : feature = true)
    (allowed : fencePrefixPresent px = false ∨ s.cfg.fenceIgnoresPrefixes = true) (effect : Proc → State) :
    fenceStep s px feature effect = .next (effect x) := by
  have not_refused : (fencePrefixPresent px && !s.cfg.fenceIgnoresPrefixes) = false := by
    rcases allowed with absent | ignored
    · simp [absent]
    · simp [ignored]
  simp [fenceStep, hx, not_refused, lock, available]

/-- Settles O9: the effect of an LFENCE does not look at the queue. -/
theorem lfenceMovesPcAlone : Obligations.LfenceMovesPcAlone := by
  intro s x px rm hx lock sse2 allowed
  exact fenceStep_completes hx lock sse2 allowed _

/-- Settles O10: the effect of an MFENCE is the one that looks at the queue, and it chooses between two next states. -/
theorem mfenceWaitsForItsQueue : Obligations.MfenceWaitsForItsQueue := by
  intro s x px rm hx lock sse2 allowed
  exact (fenceStep_completes hx lock sse2 allowed _).trans (apply_ite Host.Outcome.next ..)

/-- Settles O11: the marker is appended whatever is queued before it. -/
theorem sfenceQueuesItsMarker : Obligations.SfenceQueuesItsMarker := by
  intro s x px rm hx lock sse allowed
  exact fenceStep_completes hx lock sse allowed _

end Sys2Proof.Machine
end

section
/-! O50: an MSR read after it is written (R29, R307). -/

namespace Sys2Proof.Machine

open Sys2Proof

section

variable {s : State} {p : Nat} {x : Proc} {v : W64}

/-! ## Bits of a word -/

/-- A word is put together again from the bits a mask selects and the bits it leaves. -/
theorem and_or_and_not (v mask : W64) : (v &&& mask) ||| (v &&& ~~~mask) = v := by
  ext i hi
  cases h : mask[i] <;> simp [h]

/-- Whether a bit of a word is set, asked with a mask. -/
theorem and_twoPow_bne_zero {i : Nat} (hi : i < 64) (v : W64) :
    (v &&& BitVec.twoPow 64 i != 0#64) = v.getLsbD i := by
  rw [BitVec.and_twoPow]
  cases v.getLsbD i with
  | false => rfl
  | true =>
    have nonzero : BitVec.twoPow 64 i ≠ 0#64 := fun zero => by
      simpa [hi] using congrArg (BitVec.getLsbD · i) zero
    simpa using nonzero

/-! ## Storage -/

/-- Both copies hold the value stored, and each is read for its bits. -/
theorem storedMsr_storeMsr (s : State) (p : Nat) (m : Msr) (v : W64) : storedMsr (storeMsr s p m v) p m = v := by
  have core : copyOf (storeMsr s p m v) (coreKey s.cfg p m) = v := by rw [copyOf_storeMsr, if_pos (.inr rfl)]
  have own : copyOf (storeMsr s p m v) (ownKey p m) = v := by rw [copyOf_storeMsr, if_pos (.inl rfl)]
  have cfg : (storeMsr s p m v).cfg = s.cfg := rfl
  rw [storedMsr, cfg, core, own, and_or_and_not]

/-- A processor after f is applied to its own state. -/
theorem State.updProc_self (hx : s.procs[p]? = some x) (f : Proc → Proc) : (s.updProc p f).procs[p]? = some (f x) := by
  simp [hx]

/-- A write of IA32_APIC_BASE (R307). -/
theorem writeMsr_apicBase (s : State) (p : Nat) (v : W64) :
    writeMsr s p .apicBase v = (storeMsr s p .apicBase v).updProc p fun x =>
      { x with bspFlag := v.getLsbD 8, x2apic := s.cfg.hasX2apic && v.getLsbD 10 } := by
  have flag : (v &&& bspBit != 0#64) = v.getLsbD 8 := and_twoPow_bne_zero (i := 8) (by decide) v
  have mode : (v &&& x2apicBit != 0#64) = v.getLsbD 10 := and_twoPow_bne_zero (i := 10) (by decide) v
  simp only [writeMsr, flag, mode]

/-- IA32_APIC_BASE reads as stored where the BSP flag is bit 8 of what is stored (R307). -/
theorem readMsr_apicBase (stored : storedMsr s p .apicBase = v) (flag : x.bspFlag = v.getLsbD 8) :
    readMsr s p x .apicBase = v := by
  have selected : v &&& bspBit = if v.getLsbD 8 then bspBit else 0#64 := BitVec.and_twoPow v 8
  rw [readMsr, stored, flag, ← selected, BitVec.or_comm]
  exact and_or_and_not v bspBit

end

/-- Settles O50: IA32_APIC_BASE, a word of the last-branch-record stack, and the MSRs that are stored and no more. -/
theorem msrReadsBack : Obligations.MsrReadsBack := by
  intro s p x m v hx x2
  cases m with
  | x2apic k => cases x2
  | apicBase =>
    rw [writeMsr_apicBase]
    exact ⟨_, State.updProc_self hx _, readMsr_apicBase (storedMsr_storeMsr s p .apicBase v) rfl, fun _ => rfl,
      fun _ h => (by cases h), fun h => absurd rfl h⟩
  | lbr n =>
    refine ⟨_, State.updProc_self hx _, (wordAt_putWord x.lbr n n v).trans (if_pos rfl), fun h => (by cases h),
      fun n' h => ?_, fun _ h => absurd rfl (h n)⟩
    cases h
    exact ⟨rfl, rfl, fun k hk => (wordAt_putWord x.lbr n k v).trans (if_neg hk)⟩
  | _ =>
    exact ⟨x, hx, storedMsr_storeMsr s p _ v, fun h => (by cases h), fun _ h => (by cases h), fun _ _ => rfl⟩

end Sys2Proof.Machine
end

section
/-! O43, O45 to O48: serializing steps that wait and serializing steps that run (R250 to R258). -/

namespace Sys2Proof.Machine

open Sys2Proof

section

variable {s : State} {p : Nat} {x : Proc} {go : Proc → State → Out}

/-! ## Privilege and serialization -/

theorem privileged_of_cpl (h : x.cpl = 0#2) (o : Out) : privileged p x s o = o := if_pos h

theorem serialize_waits (h : x.queue ≠ []) : serialize p x s go = .next s := by simp [serialize, h]

theorem serialize_of_empty (h : x.queue = []) : serialize p x s go = go x.settle (s.setProc p x.settle) := by
  simp [serialize, h]

theorem serializeCore_waits (h : x.queue ≠ []) :
    serializeCore p x s go = .next (s.setProc p { x with serializing := true }) := by
  simp [serializeCore, h]

theorem serializeCore_of_empty (h : x.queue = [])
    (all : ∀ (q : Nat) (z : Proc), s.procs[q]? = some z → z.queue = []) :
    serializeCore p x s go = go x.settledAll (settledCore s p x) := by
  have drained (q : Nat) : queueEmpty s q = true := by
    unfold queueEmpty
    cases hz : s.procs[q]? with
    | none => rfl
    | some z => simp [all q z hz]
  have core : (siblings s.cfg p).all (queueEmpty s) = true := List.all_eq_true.mpr fun q _ => drained q
  simp only [serializeCore, h, core]
  rfl

theorem settledCore_sameMemory (s : State) (p : Nat) (x : Proc) : s.SameMemory (settledCore s p x) := by
  obtain ⟨procs, _, eq⟩ := settledCore_same s p x
  exact eq ▸ ⟨rfl, rfl, rfl, rfl⟩

end

/-- Settles O43: below the check of the privilege stands `serialize` or `serializeCore`; LTR may look at the lock first,
which is not free either while Q_p is not empty, and MOV to CR0 is core-wide where it changes CD. -/
theorem serializingStepsWait : Obligations.SerializingStepsWait := by
  intro s p len x e serializing pending allowed
  cases e with
  | cpuid => exact (serialize_waits pending : execCpuid len p x s = .next s)
  | iret => exact (serialize_waits pending : execIret p x s = .next s)
  | rsm => exact (serialize_waits pending : execRsm p x s = .next s)
  | invlpg | invept | invvpid | lgdt | lidt | lldt | movCr3 | movCr4 | movDr | rdmsr =>
    exact (privileged_of_cpl (allowed rfl) _).trans (serialize_waits pending)
  | wbinvd | invd => exact (privileged_of_cpl (allowed rfl) _).trans (serializeCore_waits pending)
  | ltr v =>
    refine (privileged_of_cpl (allowed rfl) _).trans ?_
    have locked : lockFree s p x = false := by simp [lockFree, pending]
    simp only [locked, serialize_waits pending, Bool.false_eq_true, ite_self]
    rfl
  | movCr0 v =>
    refine (privileged_of_cpl (allowed rfl) _).trans ?_
    by_cases same : v.cd = x.cr0.cd
    · simp [AbsStep.coreWide, same, serialize_waits pending]
    · simp [AbsStep.coreWide, same, serializeCore_waits pending]
  | wrmsr m v =>
    refine (privileged_of_cpl (allowed rfl) _).trans ?_
    have full : m.nonSerializing = false := by simpa [AbsStep.isSerializing] using serializing
    simp [AbsStep.coreWide, full, serializeCore_waits pending]
  | _ => cases serializing

/-! ## WBINVD and INVD -/

/-- A move of one line keeps the invariant of R140 and leaves that line Invalid, and every other as it was. -/
structure Invalidates (f : State → Nat → State) : Prop where
  inv : ∀ (s : State) (l : Nat), s.Inv → (f s l).Inv
  lines : ∀ (s : State) (l k : Nat), s.Inv → (f s l).lineState k = if k = l then .invalid else s.lineState k

theorem performFlush_invalidates : Invalidates performFlush where
  inv _ l h := performFlush_inv h l
  lines _ l k h := flushLine_lineState h.canonical l k

theorem dropLine_invalidates : Invalidates fun t l => flushMonitors (dropLine t l) l where
  inv _ l h := (flushMonitors_sameMemory _ l).inv (dropLine_inv h l)
  lines _ l k h := dropLine_lineState h.canonical l k

section

variable {s : State} {f : State → Nat → State}

theorem Invalidates.foldl_inv (hf : Invalidates f) (h : s.Inv) (ls : List Nat) : (ls.foldl f s).Inv := by
  induction ls generalizing s with
  | nil => exact h
  | cons l ls ih => exact ih (hf.inv s l h)

theorem Invalidates.foldl_lineState (hf : Invalidates f) (h : s.Inv) (ls : List Nat) (k : Nat) :
    (ls.foldl f s).lineState k = if k ∈ ls then .invalid else s.lineState k := by
  induction ls generalizing s with
  | nil => simp
  | cons l ls ih =>
    rw [List.foldl_cons, ih (hf.inv s l h), hf.lines s l k h]
    by_cases here : k = l <;> simp [here]

/-- Such a move of every listed line leaves every line Invalid: one that is not listed is Invalid. -/
theorem Invalidates.foldl_listedLines (hf : Invalidates f) (h : s.Inv) (k : Nat) :
    (s.listedLines.foldl f s).lineState k = .invalid := by
  rw [hf.foldl_lineState h]
  split
  · rfl
  · rename_i unlisted
    by_contra valid
    exact unlisted (mem_listedLines valid)

/-- With every line Invalid, Mem and Coh agree (R140). -/
theorem Invalidates.foldl_listedLines_mem (hf : Invalidates f) (h : s.Inv) (a : Nat) :
    readByte (s.listedLines.foldl f s).mem a = readByte (s.listedLines.foldl f s).coh a :=
  (hf.foldl_inv h _).coherent a (by simp [hf.foldl_listedLines h])

theorem foldl_performFlush_coh (ls : List Nat) (s : State) : (ls.foldl performFlush s).coh = s.coh := by
  induction ls generalizing s with
  | nil => rfl
  | cons l ls ih => exact (ih (performFlush s l)).trans (flushLine_coh s l)

theorem foldl_dropLine_mem (ls : List Nat) (s : State) :
    (ls.foldl (fun t l => flushMonitors (dropLine t l) l) s).mem = s.mem := by
  induction ls generalizing s with
  | nil => rfl
  | cons l ls ih => exact (ih (flushMonitors (dropLine s l) l)).trans (dropLine_mem s l)

end

/-- Settles O45: the flushes leave Coh and invalidate every line, and then Mem agrees with Coh (R140). -/
theorem wbinvdWritesEverythingBack : Obligations.WbinvdWritesEverythingBack := by
  intro s p len x inv _ cpl empty all
  have settled := settledCore_sameMemory s p x
  have coh := (foldl_performFlush_coh (settledCore s p x).listedLines (settledCore s p x)).trans settled.coh
  have agree := performFlush_invalidates.foldl_listedLines_mem (settled.inv inv)
  exact ⟨_, (privileged_of_cpl cpl _).trans (serializeCore_of_empty empty all), coh,
    performFlush_invalidates.foldl_listedLines (settled.inv inv),
    fun a => (agree a).trans (congrArg (readByte · a) coh)⟩

/-- Settles O46: the drops leave Mem and invalidate every line, and then Coh agrees with Mem (R140). -/
theorem invdLosesModifiedData : Obligations.InvdLosesModifiedData := by
  intro s p len x inv _ cpl empty all
  have settled := settledCore_sameMemory s p x
  have mem := (foldl_dropLine_mem (settledCore s p x).listedLines (settledCore s p x)).trans settled.mem
  have agree := dropLine_invalidates.foldl_listedLines_mem (settled.inv inv)
  exact ⟨_, (privileged_of_cpl cpl _).trans (serializeCore_of_empty empty all), mem,
    dropLine_invalidates.foldl_listedLines (settled.inv inv),
    fun a => (agree a).symm.trans (congrArg (readByte · a) mem)⟩

/-! ## MOV to CR3 -/

/-- A register write may change the monitor and nothing else (R266). -/
theorem Proc.maybeTrigger_eq (x : Proc) (tick : Nat) :
    x.maybeTrigger tick = { x with monitor := (x.maybeTrigger tick).monitor } := by
  unfold Proc.maybeTrigger
  split <;> rfl

theorem mem_newCr3_tlb {s : State} {p : Nat} {e : TlbEntry} :
    e ∈ (newCr3 s p).tlb ↔ e ∈ s.tlb ∧ (e.owner ≠ p ∨ e.page.global = true) := by
  simp [newCr3, dropTlb, or_iff_not_imp_left]

/-- Settles O47: of the processor it changes CR3, pc, the old bytes and perhaps the monitor. -/
theorem movCr3KeepsGlobalTranslations : Obligations.MovCr3KeepsGlobalTranslations := by
  intro s p len x v hx cpl empty
  refine ⟨_, _, (privileged_of_cpl cpl _).trans (serialize_of_empty empty),
    State.setProc_self (s := newCr3 (s.setProc p x.settle) p) (State.setProc_self hx x.settle) _, ?cr3, ?gpr, ?pc,
    fun _ => mem_newCr3_tlb⟩
  case cr3 | gpr | pc => rw [Proc.maybeTrigger_eq]; rfl

/-! ## CPUID -/

/-- CPUID answers as the parameters say, but for the leaf of the monitor line sizes. -/
theorem cpuidAt_eq (s : State) (p : Nat) (leaf sub : W32) :
    (if leaf = 5#32 then cpuidAt s p leaf sub else cpuid s.cfg p leaf sub) = cpuidAt s p leaf sub := by
  unfold cpuidAt
  split <;> rfl

@[simp] theorem Proc.reg_advance (x : Proc) (n : Nat) (r : Gpr) : (x.advance n).reg r = x.reg r := rfl

/-- A processor with CPUID's outputs in its registers (R252). -/
def Proc.withAnswer (x : Proc) (o : CpuidOut) : Proc :=
  (((x.setReg .rax (o.eax.setWidth 64)).setReg .rbx (o.ebx.setWidth 64)).setReg .rcx (o.ecx.setWidth 64)).setReg .rdx
    (o.edx.setWidth 64)

theorem execCpuid_of_empty {s : State} {p len : Nat} {x : Proc} (empty : x.queue = []) :
    execCpuid len p x s = .next ((s.setProc p x.settle).setProc p
      ((x.settle.withAnswer (cpuidAt s p ((x.reg .rax).setWidth 32) ((x.reg .rcx).setWidth 32))).advance len)) :=
  serialize_of_empty empty

/-- What the registers hold after CPUID. -/
theorem Proc.reg_withAnswer (x : Proc) (o : CpuidOut) (r : Gpr) :
    (x.withAnswer o).reg r = if r = .rdx then o.edx.setWidth 64 else if r = .rcx then o.ecx.setWidth 64
      else if r = .rbx then o.ebx.setWidth 64 else if r = .rax then o.eax.setWidth 64 else x.reg r := by
  simp only [Proc.withAnswer, Proc.reg_setReg]

/-- Settles O48: of the processor it writes four registers, pc and the old bytes. -/
theorem cpuidWritesFourRegisters : Obligations.CpuidWritesFourRegisters := by
  intro s p len x hx empty leaf o
  have answer : o = cpuidAt s p leaf ((x.reg .rcx).setWidth 32) := cpuidAt_eq s p leaf _
  rw [answer]
  refine ⟨_, _, execCpuid_of_empty empty,
    State.setProc_self (s := s.setProc p x.settle) (State.setProc_self hx x.settle) _, ?rax, ?rbx, ?rcx, ?rdx,
    fun r rax rbx rcx rdx => ?others, rfl, fun q other => ?processors, rfl⟩
  case rax | rbx | rcx | rdx => exact Proc.reg_withAnswer ..
  case others =>
    rw [Proc.reg_advance, Proc.reg_withAnswer, if_neg rdx, if_neg rcx, if_neg rbx, if_neg rax]
    rfl
  case processors => rw [State.setProc_other _ other, State.setProc_other _ other]

end Sys2Proof.Machine
end

section
/-! O41: XCHG on memory outside the local APIC page (R95, R242). -/

namespace Sys2Proof.Machine

open Sys2Proof

section

variable {s : State} {p q n len : Nat} {x : Proc} {pas : List Nat}

/-- An access to addresses that exist and are backed, none of them WC, is not refused (R32, R82, R149). -/
theorem accessStop_eq_none {c : Config}
    (h : ∀ pa ∈ pas, pa < 2 ^ c.paBits ∧ isBacked c pa = true ∧ memType c pa ≠ .wc) : accessStop c pas = none := by
  have inside : (pas.any fun a => decide (2 ^ c.paBits ≤ a)) = false := by
    simpa using fun pa hpa => (h pa hpa).1
  have cacheable : (pas.any fun a => memType c a == .wc) = false := by
    simpa using fun pa hpa => (h pa hpa).2.2
  have backed : (pas.any fun a => !isBacked c a) = false := by
    simpa using fun pa hpa => (h pa hpa).2.1
  simp [accessStop, inside, cacheable, backed]

/-- With an empty queue the bytes come from Coh. -/
theorem dataBytes_of_empty (empty : x.queue = []) (outside : ∀ pa ∈ pas, inApicPage pa = false) :
    dataBytes s x pas = pas.map (readByte s.coh) := by
  refine dataBytes_eq_of_newestByte outside (List.forall₂_map_right_iff.mpr (List.forall₂_same.mpr fun pa _ => ?_))
  exact .inr ⟨by simp [empty], rfl⟩

/-- Of a processor a write changes the old bytes its fetch may see and, where it triggers the monitor, the monitor and
the activity. -/
theorem performWrite_proc_eq (hq : s.procs[q]? = some x) (p : Nat) (cells : List Host.Cell) :
    ∃ stale monitor activity, (performWrite s p cells).procs[q]? =
      some { x with stale := stale, monitor := monitor, activity := activity } := by
  obtain ⟨stale, hs⟩ := performBytes_proc hq p cells
  obtain ⟨y, hy, rfl | rfl⟩ := triggerMonitors_proc hs p (cells.map (·.1))
  · exact ⟨stale, x.monitor, x.activity, hy⟩
  · exact ⟨stale, .triggered, x.trigger.activity, hy⟩

/-- A register after an instruction has written one (R21). -/
theorem Proc.reg_put (x : Proc) (r r' : Gpr) (v : W64) :
    (x.put r v).reg r' = if r' = r then x.sized v else x.reg r' := Proc.reg_setReg x r r' (x.sized v)

/-- A locked operation that passes its checks, with an empty queue and the lock free (R90, R95). -/
theorem lockedStep_of_ok {a : AddrExpr} {new : List Byte → List Byte} {regs : List Byte → Proc → Proc}
    {ts : List AddrSpace} (ht : translateBytes s p x .write (x.linearOf a) n = .ok pas ts)
    (hs : accessStop s.cfg pas = none) (empty : x.queue = []) (lock : s.busLock = none ∨ s.busLock = some p) :
    lockedStep a n new regs len p x s = .next (State.updProc
      { writeData { s with tables := ts } p (cellsAt pas (new (dataBytes s x pas))) with busLock := none } p
      fun y => { (regs (dataBytes s x pas) y).advance len with stale := ownStale s x pas ++ y.stale }) := by
  have free : lockFree s p x = true := by simp [lockFree, empty, busHeld_eq_false lock]
  simp only [lockedStep, withAddresses_of_ok ht hs, free, if_true]

end

/-- Settles O41: the bytes read are Coh's, those written reach Coh as one performed write, and the processor is the one
that write leaves, with its register and pc changed. -/
theorem xchgIsOneVisibleStep : Obligations.XchgIsOneVisibleStep := by
  intro s p len x a r w pas ts canonical hx empty lock ht ordinary bytes
  have outside : ∀ pa ∈ pas, inApicPage pa = false := fun pa hpa => (ordinary pa hpa).2.2.1
  have permitted : accessStop s.cfg pas = none := accessStop_eq_none fun pa hpa =>
    have ⟨inside, backed, _, type⟩ := ordinary pa hpa
    ⟨inside, backed, type⟩
  have cells : ∀ c ∈ pas.zip bytes, inApicPage c.1 = false := fun c hc => outside c.1 (List.of_mem_zip hc).1
  obtain ⟨stale, monitor, activity, hz⟩ := performWrite_proc_eq (s := { s with tables := ts }) hx p (pas.zip bytes)
  have run := lockedStep_of_ok (len := len) (new := fun _ => bytes) (regs := fun old y => y.put r (valueOf old))
    ht permitted empty lock
  rw [dataBytes_of_empty empty outside, cellsAt, writeData_of_outside cells] at run
  refine ⟨_, _, run, State.updProc_self hz _, ?new, fun r' other => ?others, empty, rfl, rfl, ?coh, rfl⟩
  case new => exact (Proc.reg_put _ r r _).trans (if_pos rfl)
  case others => exact (Proc.reg_put _ r r' _).trans (if_neg other)
  case coh => exact performBytes_coh (s := { s with tables := ts }) ⟨canonical.coh, canonical.mem, canonical.lines⟩ p _

end Sys2Proof.Machine
end

section
/-! O29, O52, O53: processors that execute nothing, and the steps of CLI, STI and MWAIT (R260 to R264). -/

namespace Sys2Proof.Machine

open Sys2Proof

/-- Settles O29: such a processor does not meet the condition of a move. -/
theorem idleProcessorsExecuteNothing : Obligations.IdleProcessorsExecuteNothing := by
  intro s p x hx idle
  have still : (x.runnable && !stopped s p && !heldBySibling s p x) = false := by
    by_contra moves
    simp only [Bool.not_eq_false, Bool.and_eq_true, Bool.not_eq_true', runnable_iff] at moves
    obtain ⟨⟨⟨running, ended, refusal⟩, going⟩, _⟩ := moves
    simp [running, ended, refusal, going] at idle
  simp [doEvent, runProc, hx, still]

/-- Settles O52: neither checks anything. -/
theorem cliAndStiWriteTheInterruptFlag : Obligations.CliAndStiWriteTheInterruptFlag :=
  fun _ _ _ _ => ⟨rfl, rfl⟩

theorem execMwait_of_triggered {s : State} {p len : Nat} {x : Proc} (available : monitorAvailable s.cfg x = true)
    (triggered : x.monitor = .triggered) : execMwait len p x s = .next (s.setProc p (x.advance len)) := by
  simp only [execMwait, available, if_true, triggered]

theorem execMwait_of_armed {s : State} {p len lo size : Nat} {x : Proc} (available : monitorAvailable s.cfg x = true)
    (armed : x.monitor = .armed lo size) :
    execMwait len p x s = .next (s.setProc p ({ x with activity := .mwaitWait }.advance len)) := by
  simp only [execMwait, available, if_true, armed]

/-- Settles O53: MWAIT is available, and looks at the monitor alone. -/
theorem mwaitWaitsOnAnArmedMonitor : Obligations.MwaitWaitsOnAnArmedMonitor := by
  intro s p len x feature level
  have available : monitorAvailable s.cfg x = true := by
    rcases level with cpl | allowed
    · simp [monitorAvailable, feature, cpl]
    · simp [monitorAvailable, feature, allowed]
  exact ⟨execMwait_of_triggered available, fun _ _ => execMwait_of_armed available⟩

end Sys2Proof.Machine
end

section
/-! O16 to O23: the exceptions of the six instructions (R193, R281 to R287, R291). -/

namespace Sys2Proof.Machine

open Sys2Proof

section

variable {s t : State} {p len : Nat} {x y : Proc} {i : Instr} {px : Prefixes} {m : MemOp} {la : W64}

/-! ## The fences -/

/-- A fence is `fenceStep` with its own feature flag, and its effect leaves the record of a fault (R220 to R222). -/
theorem exec_of_fence (hi : memoryForm i = none) (s : State) :
    ∃ px rm feature effect, (i = .lfence px rm ∨ i = .mfence px rm ∨ i = .sfence px rm) ∧
      exec i s = fenceStep s px feature effect ∧ undefinedOpcode s.cfg i = (px.has .lock || !feature) ∧
      ∀ x, s.procs[s.cur]? = some x → ∃ y, (effect x).procs[s.cur]? = some y ∧ y.ended = x.ended := by
  cases i with
  | clflush | clflushopt | clwb => cases hi
  | lfence px rm => exact ⟨px, rm, _, _, .inl rfl, rfl, rfl, fun x hx => ⟨_, State.setProc_self hx _, rfl⟩⟩
  | mfence px rm =>
    refine ⟨px, rm, _, _, .inr (.inl rfl), rfl, rfl, fun x hx => ?_⟩
    split
    · exact ⟨_, State.setProc_self hx _, rfl⟩
    · exact ⟨x, hx, rfl⟩
  | sfence px rm => exact ⟨px, rm, _, _, .inr (.inr rfl), rfl, rfl, fun x hx => ⟨_, State.setProc_self hx _, rfl⟩⟩

/-- #UD of a fence whose prefixes are not refused (R281). -/
theorem fenceStep_undefined {feature : Bool} (hx : s.procs[s.cur]? = some x)
    (allowed : fencePrefixPresent px = false ∨ s.cfg.fenceIgnoresPrefixes = true)
    (ud : (px.has .lock || !feature) = true) (effect : Proc → State) :
    fenceStep s px feature effect = .next (raise s s.cur x .ud none) := by
  have not_refused : (fencePrefixPresent px && !s.cfg.fenceIgnoresPrefixes) = false := by
    rcases allowed with absent | ignored
    · simp [absent]
    · simp [ignored]
  simp [fenceStep, hx, not_refused, ud]

/-- A fence that answers a next state has raised #UD where R281 says so, and else leaves the record of a fault. -/
theorem exec_fence_next (hi : memoryForm i = none) (hx : s.procs[s.cur]? = some x) (h : exec i s = .next t) :
    (undefinedOpcode s.cfg i = true ∧ t = raise s s.cur x .ud none) ∨
    (undefinedOpcode s.cfg i = false ∧ ∃ y, t.procs[s.cur]? = some y ∧ y.ended = x.ended) := by
  obtain ⟨px, rm, feature, effect, _, he, ud, keeps⟩ := exec_of_fence hi s
  rw [he] at h
  rw [ud]
  obtain ⟨x', hx', _, ⟨raised, rfl⟩ | ⟨lock, available, rfl⟩⟩ := fenceStep_next h <;> cases hx.symm.trans hx'
  · exact .inl ⟨by simpa using raised, rfl⟩
  · exact .inr ⟨by simp [lock, available], keeps x hx⟩

/-! ## The cache-line instructions -/

/-- The record of a fault that a cache-line instruction leaves: the first of its stages that fails gives it (R193). -/
def cacheLineRecord (s : State) (x : Proc) (px : Prefixes) (m : MemOp) (i : Instr) : Option FaultRecord :=
  if undefinedOpcode s.cfg i then some ⟨.ud, none, x.pc⟩
  else match operandLinear s.cfg x px m i.length (execOnlyAllowed s.cfg i) with
    | .exc k code => some ⟨k, code, x.pc⟩
    | .ok la =>
      match translate s s.cur x la.toNat .read with
      | .pageFault _ => some ⟨.pf, some (Config.pageFaultCode s.tick), x.pc⟩
      | .ok _ _ => x.ended

/-- `cacheLineRecord` is what stands in the processor's record afterwards. -/
theorem exec_ended (hi : memoryForm i = some (px, m)) (hx : s.procs[s.cur]? = some x) (h : exec i s = .next t)
    (hy : t.procs[s.cur]? = some y) : y.ended = cacheLineRecord s x px m i := by
  obtain ⟨entry, he⟩ := exec_of_memoryForm hi hx
  rw [he] at h
  cases h
  have left {ts : List AddrSpace} {z : Proc}
      (hz : (State.setProc { s with tables := ts } s.cur z).procs[s.cur]? = some y) : y.ended = z.ended := by
    cases (State.setProc_self (s := { s with tables := ts }) hx z).symm.trans hz
    rfl
  unfold cacheLineStep at hy
  unfold cacheLineRecord
  split at hy
  case isTrue ud =>
    rw [if_pos ud]
    exact left hy
  case isFalse defined =>
    rw [if_neg defined]
    cases hla : operandLinear s.cfg x px m i.length (execOnlyAllowed s.cfg i) with
    | exc k code =>
      simp only [hla] at hy
      exact left hy
    | ok la =>
      simp only [hla] at hy
      cases ht : translate s s.cur x la.toNat .read with
      | pageFault ts =>
        simp only [ht] at hy ⊢
        exact left hy
      | ok pa ts =>
        simp only [ht] at hy ⊢
        exact (left hy).trans (Proc.advance_ended _ _)

/-- The exceptions of a cache-line instruction in the order of its stages, where the mode checks its linear address by a
condition of its own: #UD, the exception of that check, #PF (R193). -/
theorem exec_ended_of_check {illegal : Prop} [Decidable illegal] {k : ExcKind} {code : Option W32}
    (hi : memoryForm i = some (px, m)) (hx : s.procs[s.cur]? = some x) (h : exec i s = .next t)
    (hy : t.procs[s.cur]? = some y)
    (hla : operandLinear s.cfg x px m i.length (execOnlyAllowed s.cfg i) = if illegal then .exc k code else .ok la) :
    if undefinedOpcode s.cfg i then y.ended = some ⟨.ud, none, x.pc⟩
    else if illegal then y.ended = some ⟨k, code, x.pc⟩
    else
      (∃ pa u, translate s s.cur x la.toNat .read = .ok pa u ∧ y.ended = x.ended) ∨
        (∃ u code, translate s s.cur x la.toNat .read = .pageFault u ∧ y.ended = some ⟨.pf, some code, x.pc⟩) := by
  rw [exec_ended hi hx h hy, cacheLineRecord, hla]
  split_ifs with ud check
  · rfl
  · rfl
  · cases ht : translate s s.cur x la.toNat .read with
    | ok pa u => exact .inl ⟨pa, u, rfl, by simp only [ht]⟩
    | pageFault u => exact .inr ⟨u, Config.pageFaultCode s.tick, rfl, by simp only [ht]⟩

/-! ## The linear address of the operand, by mode -/

/-- Real-address and virtual-8086 mode: a byte of the first 64 KiB of any segment (R283, R284). -/
theorem operandLinear_of_real {c : Config} {eo : Bool} (mode : x.mode = .realAddress ∨ x.mode = .virtual8086) :
    operandLinear c x px m len eo =
      if 0xFFFF < (effectiveAddress x px m (x.pc + BitVec.ofNat 64 len)).toNat then .exc .gp none
      else .ok ((x.segs.get (operandSeg x px m (x.pc + BitVec.ofNat 64 len))).selector.setWidth 64 * 16#64 +
        effectiveAddress x px m (x.pc + BitVec.ofNat 64 len)) := by
  rcases mode with mode | mode <;> simp only [operandLinear, linear, mode, Nat.add_sub_cancel]

/-- Protected and compatibility mode: the segment's checks (R282, R285). -/
theorem operandLinear_of_protected {c : Config} {eo : Bool} (mode : x.mode = .protectedMode ∨ x.mode = .compatibility) :
    operandLinear c x px m len eo =
      if segOk (x.segs.get (operandSeg x px m (x.pc + BitVec.ofNat 64 len)))
          (effectiveAddress x px m (x.pc + BitVec.ofNat 64 len)) 1 eo = false then
        segFault (operandSeg x px m (x.pc + BitVec.ofNat 64 len))
      else .ok (((x.segs.get (operandSeg x px m (x.pc + BitVec.ofNat 64 len))).base +
        effectiveAddress x px m (x.pc + BitVec.ofNat 64 len)) &&& 0xFFFFFFFF#64) := by
  rcases mode with mode | mode <;> simp only [operandLinear, linear, mode, ← Bool.not_eq_true, ite_not]

/-- 64-bit mode: the canonical form (R286). -/
theorem operandLinear_of_mode64 {c : Config} {eo : Bool} (mode : x.mode = .mode64) :
    operandLinear c x px m len eo =
      if canonical c (base64 x (operandSeg x px m (x.pc + BitVec.ofNat 64 len)) +
          effectiveAddress x px m (x.pc + BitVec.ofNat 64 len)) = false then
        segFault (operandSeg x px m (x.pc + BitVec.ofNat 64 len))
      else .ok (base64 x (operandSeg x px m (x.pc + BitVec.ofNat 64 len)) +
        effectiveAddress x px m (x.pc + BitVec.ofNat 64 len)) := by
  simp only [operandLinear, linear, mode, ← Bool.not_eq_true, ite_not]

/-- In real-address mode no translation fails, since there is none (R283). -/
theorem translate_of_real (mode : x.mode = .realAddress) (s : State) (p la : Nat) (acc : Access) :
    translate s p x la acc = .ok (maskA20 s p la) s.tables := by
  simp [translate, translateMarking, pgUnsettled, untranslated, mode]

/-! ## Compatibility mode -/

/-- A processor of protected mode put into compatibility mode. -/
def Proc.inCompatibility (x : Proc) : Proc := { x with mode := .compatibility }

/-- The D flag counts in both modes (R157). -/
theorem decodeEnv_inCompatibility (mode : x.mode = .protectedMode) : x.inCompatibility.decodeEnv = x.decodeEnv := by
  simp [Proc.decodeEnv, Proc.inCompatibility, mode]

/-- The two modes differ in no part of an operand's address (R285). -/
theorem operandBase_inCompatibility (mode : x.mode = .protectedMode) (px : Prefixes) (m : MemOp) (pcNext : W64) :
    operandBase x.inCompatibility px m pcNext = operandBase x px m pcNext := by
  have base : base32 x.inCompatibility px m pcNext = base32 x px m pcNext := by
    unfold base32
    simp only [mode, Proc.inCompatibility, reduceCtorEq, if_false]
    rfl
  simp only [operandBase, decodeEnv_inCompatibility mode, base]
  rfl

theorem operandLinear_inCompatibility (mode : x.mode = .protectedMode) (c : Config) (px : Prefixes) (m : MemOp)
    (len : Nat) (eo : Bool) :
    operandLinear c x.inCompatibility px m len eo = operandLinear c x px m len eo := by
  rw [operandLinear_of_protected (.inl mode), operandLinear_of_protected (.inr rfl)]
  simp only [effectiveAddress, operandSeg, operandBase_inCompatibility mode,
    decodeEnv_inCompatibility mode]
  rfl

theorem translate_inCompatibility (mode : x.mode = .protectedMode) (s : State) (p la : Nat) (acc : Access) :
    translate (s.setProc p x.inCompatibility) p x.inCompatibility la acc = translate s p x la acc := by
  have unsettled : pgUnsettled x.inCompatibility = pgUnsettled x := by
    simp only [pgUnsettled, Proc.inCompatibility, mode]
    rfl
  have off : untranslated x.inCompatibility = untranslated x := by
    simp only [untranslated, Proc.inCompatibility, mode]
    rfl
  unfold translate translateMarking
  rw [unsettled, off]
  rfl

/-- Every stage answers alike, and the record with it. -/
theorem cacheLineRecord_inCompatibility (mode : x.mode = .protectedMode) (s : State) (px : Prefixes) (m : MemOp)
    (i : Instr) :
    cacheLineRecord (s.setProc s.cur x.inCompatibility) x.inCompatibility px m i = cacheLineRecord s x px m i := by
  simp only [cacheLineRecord, State.setProc_cfg, State.setProc_cur, State.setProc_tick,
    operandLinear_inCompatibility mode, translate_inCompatibility mode]
  rfl

end

/-- Settles O17: #UD is the first stage of a cache-line instruction, and of a fence whose prefixes are not refused. -/
theorem undefinedOpcodeConditions : Obligations.UndefinedOpcodeConditions := by
  intro i s x hx ud allowed
  cases hi : memoryForm i with
  | some operand =>
    obtain ⟨entry, he⟩ := exec_of_memoryForm hi hx
    rw [he, cacheLineStep, if_pos ud]
    rfl
  | none =>
    obtain ⟨px, rm, feature, effect, fence, he, cond, _⟩ := exec_of_fence hi s
    rw [he, fenceStep_undefined hx (allowed px rm fence) (cond ▸ ud)]
    rfl

/-- Settles O18: a fence has no stage but #UD and its effect. -/
theorem fencesRaiseUndefinedOpcodeOnly : Obligations.FencesRaiseUndefinedOpcodeOnly := by
  intro i s t x y hi hx h hy
  rcases exec_fence_next hi hx h with ⟨ud, rfl⟩ | ⟨defined, z, hz, same⟩
  · cases (State.setProc_self hx _).symm.trans hy
    exact ⟨fun _ => rfl, fun defined => by simp [ud] at defined⟩
  · cases hz.symm.trans hy
    exact ⟨fun ud => by simp [defined] at ud, fun _ => same⟩

/-- Settles O16: one of the six that does not raise leaves the record, so this one has raised; the tables it leaves are
those of O14. -/
theorem exceptionsHaveNoEffect : Obligations.ExceptionsHaveNoEffect := by
  intro i s t x y hx running h hy ended
  have accessed := sixInstructionsSetAccessedAlone i s t h
  have of_raise {ts : List AddrSpace} {k : ExcKind} {c : Option W32}
      (raised : t = raise { s with tables := ts } s.cur x k c) :
      ∃ k c, y = { x with ended := some ⟨k, c, x.pc⟩ } ∧ t = State.setProc { s with tables := t.tables } s.cur y ∧
        AccessedOnly s.tables t.tables := by
    subst raised
    cases (State.setProc_self (s := { s with tables := ts }) hx _).symm.trans hy
    exact ⟨k, c, rfl, rfl, accessed⟩
  cases hi : memoryForm i with
  | none =>
    rcases exec_fence_next hi hx h with ⟨_, raised⟩ | ⟨_, z, hz, same⟩
    · exact of_raise (ts := s.tables) raised
    · cases hz.symm.trans hy
      exact absurd (same.trans running) ended
  | some operand =>
    obtain ⟨entry, he⟩ := exec_of_memoryForm hi hx
    cases he.symm.trans h
    rcases cacheLineStep_cases s s.cur x operand.1 operand.2 i.length (undefinedOpcode s.cfg i)
      (execOnlyAllowed s.cfg i) entry with ⟨ts, k, c, raised⟩ | ⟨la, pa, ts, _, _, _, done⟩
    · exact of_raise raised
    · rw [done] at hy
      cases (State.setProc_self (s := { s with tables := ts }) hx _).symm.trans hy
      exact absurd running ended

/-- Settles O19: the effective address alone is checked, and nothing is translated. -/
theorem realModeExceptions : Obligations.RealModeExceptions := by
  intro i s t x y px m hi hx mode h hy
  have stages := exec_ended_of_check hi hx h hy (operandLinear_of_real (.inl mode))
  split_ifs at stages ⊢ with ud above
  · exact stages
  · exact stages
  · rcases stages with ⟨_, _, _, same⟩ | ⟨_, _, fault, _⟩
    · exact same
    · rw [translate_of_real mode] at fault
      cases fault

/-- Settles O20: the check of real-address mode, and translation after it. -/
theorem virtual8086Exceptions : Obligations.Virtual8086Exceptions := by
  intro i s t x y px m hi hx mode h hy
  have linear := operandLinear_of_real (c := s.cfg) (px := px) (m := m) (len := i.length)
    (eo := execOnlyAllowed s.cfg i) (.inr mode)
  have stages := exec_ended_of_check hi hx h hy linear
  split_ifs at stages ⊢ with ud above
  · exact stages
  · exact stages
  · exact ⟨_, linear.trans (if_neg above), stages⟩

/-- Settles O21: the check is that of the segment. -/
theorem protectedModeExceptions : Obligations.ProtectedModeExceptions :=
  fun _ _ _ _ _ _ _ hi hx mode h hy => exec_ended_of_check hi hx h hy (operandLinear_of_protected (.inl mode))

/-- Settles O23: the check is that of the canonical form. -/
theorem longModeExceptions : Obligations.LongModeExceptions :=
  fun _ _ _ _ _ _ _ hi hx mode h hy => exec_ended_of_check hi hx h hy (operandLinear_of_mode64 mode)

/-- Settles O22: a fence looks at no mode, and every stage of a cache-line instruction answers alike in both. -/
theorem compatibilityModeAsProtected : Obligations.CompatibilityModeAsProtected := by
  intro i s t u x y z hx mode h h' hy hz
  have hx' : (s.setProc s.cur x.inCompatibility).procs[s.cur]? = some x.inCompatibility := State.setProc_self hx _
  cases hi : memoryForm i with
  | some operand =>
    exact (exec_ended hi hx' h' hz).trans
      ((cacheLineRecord_inCompatibility mode s _ _ i).trans (exec_ended hi hx h hy).symm)
  | none =>
    obtain ⟨raised, kept⟩ := fencesRaiseUndefinedOpcodeOnly i s t x y hi hx h hy
    obtain ⟨raised', kept'⟩ := fencesRaiseUndefinedOpcodeOnly i _ u _ z hi hx' h' hz
    cases ud : undefinedOpcode s.cfg i with
    | true => exact (raised' ud).trans (raised ud).symm
    | false => exact (kept' ud).trans (kept ud).symm

end Sys2Proof.Machine
end

section
/-! O44: the privileged steps above CPL 0 (R300). -/

namespace Sys2Proof.Machine

open Sys2Proof

theorem privileged_of_cpl_ne {s : State} {p : Nat} {x : Proc} (h : x.cpl ≠ 0#2) (o : Out) :
    privileged p x s o = .next (raise s p x .gp (some 0#32)) := if_neg h

/-- Settles O44: the check of the privilege stands before everything else a privileged step does. -/
theorem privilegedStepsFault : Obligations.PrivilegedStepsFault := by
  intro s p len x e isPrivileged above
  cases e with
  | wbinvd | invd | invlpg | invept | invvpid | lgdt | lidt | lldt | ltr | movCr0 | movCr3 | movCr4 | movCr8 | movDr
  | wrmsr | rdmsr => exact privileged_of_cpl_ne above _
  | _ => cases isPrivileged

end Sys2Proof.Machine
end

section
/-! O59, O60: the width of a mask, and the masks of the three-level form (R319 to R321). -/

namespace Sys2Proof.Machine

open Sys2Proof

section

variable {k last : Nat} {l : List TopoLevel} {m : TopoMasks}

/-! ## The width of a mask -/

/-- Where the count is neither 0, nor 1, nor too large for the 16 bits that are looked at (R320). -/
theorem findMaskWidth_eq {c : W32} (lo : 2 ≤ c.toNat) (hi : c.toNat ≤ 65536) :
    findMaskWidth c = (c.toNat - 1).log2 + 1 := by
  have pred : (c - 1#32).toNat = c.toNat - 1 := by bv_omega
  have low : ((c - 1#32) &&& 0xFFFF#32).toNat = c.toNat - 1 := by
    rw [BitVec.toNat_and, pred]
    exact (Nat.and_two_pow_sub_one_eq_mod _ 16).trans (Nat.mod_eq_of_lt (by omega))
  simp only [findMaskWidth, low]
  exact if_neg (by omega)

/-! ## Masks -/

/-- The bits from one on. -/
theorem getLsbD_allOnes_shiftLeft (k i : Nat) :
    (BitVec.allOnes 32 <<< k).getLsbD i = (decide (i < 32) && decide (k ≤ i)) := by
  rw [BitVec.getLsbD_shiftLeft, BitVec.getLsbD_allOnes, Bool.eq_iff_iff]
  simp only [Bool.and_eq_true, Bool.not_eq_true', decide_eq_true_eq, decide_eq_false_iff_not]
  omega

theorem getLsbD_lowMask (k i : Nat) : (lowMask k).getLsbD i = (decide (i < 32) && decide (i < k)) := by
  rw [lowMask, BitVec.getLsbD_not, getLsbD_allOnes_shiftLeft, Bool.eq_iff_iff]
  simp only [Bool.and_eq_true, Bool.not_eq_true', Bool.and_eq_false_iff, decide_eq_true_eq, decide_eq_false_iff_not]
  omega

/-- The masks of the three-level form have the shifts of the first and the last level (R319). -/
theorem topoMasks_eq (h : topoMasks l = some m)
    (rising : (validLevels l).Pairwise fun a b => a.shift.toNat ≤ b.shift.toNat) :
    ∃ first last, first ≤ last ∧
      m = ⟨lowMask first, lowMask last ^^^ lowMask first, BitVec.allOnes 32 <<< last⟩ := by
  unfold topoMasks at h
  cases levels : validLevels l with
  | nil => simp [levels] at h
  | cons a t =>
    simp only [levels, Option.ite_none_right_eq_some, Option.some.injEq] at h
    refine ⟨a.shift.toNat, _, ?_, h.2.symm⟩
    rw [List.getLast?_eq_getLast_of_ne_nil (List.cons_ne_nil a t), Option.getD_some]
    rcases List.mem_cons.mp (List.getLast_mem (List.cons_ne_nil a t)) with only | later
    · rw [only]
    · rw [levels] at rising
      exact (List.pairwise_cons.mp rising).1 _ later

end

/-- Settles O59: the width is one more than the base-2 logarithm of c - 1. -/
theorem findMaskWidthIsLeast : Obligations.FindMaskWidthIsLeast := by
  intro c lo hi
  rw [findMaskWidth_eq lo hi]
  refine ⟨?sufficient, fun w enough => ?least⟩
  case sufficient =>
    have := Nat.lt_log2_self (n := c.toNat - 1)
    omega
  case least => exact (Nat.log2_lt (by omega)).mpr (by omega)

/-- Settles O60: bit by bit, a bit lies below the first shift, between the two, or above the last one. -/
theorem topologyMasksPartitionTheId : Obligations.TopologyMasksPartitionTheId := by
  intro l m id h rising
  obtain ⟨first, last, ordered, rfl⟩ := topoMasks_eq h rising
  refine ⟨?_, ?_, ?_, ?_⟩ <;> refine BitVec.eq_of_getLsbD_eq fun i hi => ?_
  all_goals
    simp only [topoIds, BitVec.getLsbD_and, BitVec.getLsbD_or, BitVec.getLsbD_xor, getLsbD_lowMask,
      getLsbD_allOnes_shiftLeft, BitVec.getLsbD_zero, hi, decide_true, Bool.true_and]
    by_cases low : i < first
    · simp [low, show i < last by omega, show ¬last ≤ i by omega]
    · by_cases mid : i < last
      · simp [low, mid]
      · simp [low, mid, show last ≤ i by omega]

end Sys2Proof.Machine
end

section
/-! O54, O55, O56, O58: interrupts, returns from a handler, INIT and SIPI, machine checks (R292 to R297, R308, R331 to
R334). -/

namespace Sys2Proof.Machine

open Sys2Proof

section

variable {s : State} {p : Nat} {x : Proc}

/-! ## Events at one processor -/

/-- A processor replaced by itself. -/
theorem State.setProc_eq_self (hx : s.procs[p]? = some x) : s.setProc p x = s := by
  obtain ⟨_, rfl⟩ := List.getElem?_eq_some_iff.mp hx
  rw [State.setProc, List.set_getElem_self]

/-- An event that is lost while STPCLK# is asserted (R309). -/
theorem unlessStopped_of_stopped (hx : s.procs[p]? = some x) (stop : stopped s p = true) (f : Proc → Proc) :
    unlessStopped s p f = .next s := by
  simp [unlessStopped, onProc, hx, stop, State.setProc_eq_self hx]

theorem unlessStopped_of_going (hx : s.procs[p]? = some x) (going : stopped s p = false) (f : Proc → Proc) :
    unlessStopped s p f = .next (s.setProc p (f x)) := by
  simp [unlessStopped, onProc, hx, going]

/-! ## Interrupts at a halted processor (R331) -/

theorem takeMaskable_of_halted (halted : x.activity = .halted) (pc : W64) :
    x.takeMaskable pc = if x.eflags.ifFlag then x.enterHandler pc else x := by
  simp only [Proc.takeMaskable, halted]

theorem takeUnmaskable_of_halted (halted : x.activity = .halted) (pc : W64) :
    x.takeUnmaskable pc = x.enterHandler pc := by
  simp only [Proc.takeUnmaskable, halted]

/-- An interrupt that a halted processor takes makes it enter the interrupt's handler. -/
theorem doEvent_of_halted {e : Event} {h : Handler} {v : Byte} (hx : s.procs[p]? = some x)
    (halted : x.activity = .halted) (going : stopped s p = false) (lock : s.busLock = none ∨ s.busLock = some p)
    (taken : e = .nmi p ∧ h = .nmi ∨ e = .smi p ∧ h = .smi ∨
      e = .interrupt p v ∧ h = .vector v ∧ x.eflags.ifFlag = true) :
    doEvent s e = .next (s.setProc p (x.enterHandler (handlerOf s x h))) := by
  rcases taken with ⟨rfl, rfl⟩ | ⟨rfl, rfl⟩ | ⟨rfl, rfl, enabled⟩
  · simp only [doEvent, unlessStopped_of_going hx going, takeUnmaskable_of_halted halted]
  · simp only [doEvent, unlessStopped_of_going hx going, takeUnmaskable_of_halted halted]
  · simp only [doEvent, unlessStopped_of_going hx going, busHeld_eq_false lock, Bool.false_eq_true, if_false,
      takeMaskable_of_halted halted, enabled, if_true]

/-! ## INIT and SIPI -/

theorem takeInit_afterInit (x : Proc) : AfterInit x x.takeInit := by
  unfold Proc.takeInit
  dsimp only
  split <;> rename_i bsp
  · exact ⟨fun _ => ⟨rfl, rfl⟩, fun ap => by simp [bsp] at ap, rfl, rfl⟩
  · exact ⟨fun h => absurd h bsp, fun _ => rfl, rfl, rfl⟩

/-- The start-up page of a vector (R353). -/
theorem toNat_startUp (vv : Byte) : (vv.setWidth 64 <<< 12 : W64).toNat = vv.toNat * 4096 := by
  simp only [BitVec.toNat_shiftLeft, BitVec.toNat_setWidth, Nat.shiftLeft_eq]
  omega

theorem takeSipi_afterSipi (x : Proc) (vv : Byte) : AfterSipi x (x.takeSipi vv) vv := by
  unfold Proc.takeSipi
  split <;> rename_i waiting
  · exact ⟨fun _ => ⟨rfl, rfl, toNat_startUp vv, rfl, rfl⟩, fun h => absurd waiting h⟩
  · exact ⟨fun h => absurd h waiting, fun _ => rfl⟩

/-! ## Returns from a handler -/

/-- The newest saved instruction pointer is taken back, and what was fetched earlier is discarded (R250, R295). -/
theorem leaveHandler_settle {pc : W64} {older : List W64} (saved : x.handlers = pc :: older) (tick : Nat) :
    x.settle.leaveHandler tick = { x with pc := x.sized pc, handlers := older, stale := [] } := by
  simp only [Proc.leaveHandler, Proc.settle_handlers, saved]
  rfl

/-- IRET with Q_p empty; RSM is the same return (R295). -/
theorem execIret_of_empty (empty : x.queue = []) :
    execIret p x s = .next ((s.setProc p x.settle).setProc p (x.settle.leaveHandler s.tick)) :=
  serialize_of_empty empty

theorem execRsm_eq_execIret (s : State) (p : Nat) (x : Proc) : execRsm p x s = execIret p x s := rfl

/-! ## Machine checks -/

/-- A processor that is neither shut down nor ended meets the error by CR4.MCE (R297). -/
theorem machineCheck_of_going (up : x.activity ≠ .shutdown) (running : x.ended = none) :
    x.machineCheck = if x.cr4.mce then { x with ended := some ⟨.mc, none, x.pc⟩ }
      else { x with activity := .shutdown } := by
  simp [Proc.machineCheck, up, running]

/-- Such a processor of the package with CR4.MCE clear asserts IERR#. -/
theorem anyMceClear_of_proc {k : Nat} (hx : s.procs[p]? = some x) (package : packageOf s.cfg p = k)
    (mce : x.cr4.mce = false) (up : x.activity ≠ .shutdown) (running : x.ended = none) : anyMceClear s k = true := by
  obtain ⟨inRange, rfl⟩ := List.getElem?_eq_some_iff.mp hx
  exact List.any_eq_true.mpr ⟨true, List.mem_mapIdx.mpr ⟨p, inRange, by simp [package, mce, up, running]⟩, rfl⟩

end

/-- Settles O54: the processor enters the handler of the event, or is as it was. -/
theorem haltedProcessorsWake : Obligations.HaltedProcessorsWake := by
  intro s p v x hx halted going lock
  refine ⟨fun masked => ?_, fun e h taken => ?_⟩
  · simp only [doEvent, unlessStopped_of_going hx going, busHeld_eq_false lock, takeMaskable_of_halted halted, masked,
      Bool.false_eq_true, if_false, State.setProc_eq_self hx]
  · exact ⟨_, _, doEvent_of_halted hx halted going lock taken, State.setProc_self hx _, rfl, rfl, rfl, rfl, rfl, rfl,
      rfl⟩

/-- Settles O55: IRET and RSM are one serializing return. -/
theorem iretReturnsToTheSavedPc : Obligations.IretReturnsToTheSavedPc := by
  intro s p len x pc older empty saved hx
  refine ⟨_, execIret_of_empty empty, ?_, (execRsm_eq_execIret s p x).trans (execIret_of_empty empty)⟩
  rw [leaveHandler_settle saved]
  exact State.setProc_self (s := s.setProc p x.settle) (State.setProc_self hx x.settle) _

/-- Settles O56: STPCLK# and `canTake` are looked at first; then the message's kind says what the processor does. -/
theorem initAndSipi : Obligations.InitAndSipi := by
  intro s p x hx
  refine ⟨?lost, fun going able => ?asserted, fun stop => ?held, fun going m next =>
    ⟨fun kind => ?init, fun vv kind => ?sipi⟩⟩
  case lost =>
    intro unable
    cases stop : stopped s p with
    | true => exact unlessStopped_of_stopped hx stop _
    | false =>
      have unable : x.canTake .init = false := unable.resolve_left (by simp [stop])
      simp only [doEvent, unlessStopped_of_going hx stop, unable, Bool.false_eq_true, if_false,
        State.setProc_eq_self hx]
  case asserted =>
    refine ⟨x.takeInit, ?_, takeInit_afterInit x⟩
    simp only [doEvent, unlessStopped_of_going hx going, able, if_true]
  case held => simp [doEvent, deliver, hx, stop]
  case init => exact ⟨x.takeInit, takeInit_afterInit x, by simp [doEvent, deliver, hx, going, next, kind]⟩
  case sipi => exact ⟨x.takeSipi vv, takeSipi_afterSipi x vv, by simp [doEvent, deliver, hx, going, next, kind]⟩

/-- Settles O58: the event reaches the processors of its package alone, and each by CR4.MCE. -/
theorem machineCheckOutcome : Obligations.MachineCheckOutcome := by
  intro s k p x hx up running
  refine ⟨_, if packageOf s.cfg p = k then x.machineCheck else x, rfl, ?here, ?set, ?clear, fun other => if_neg other⟩
  case here => simp [withPins, onPackage, hx]
  case set =>
    rintro ⟨package, mce⟩
    rw [if_pos package, machineCheck_of_going up running, if_pos mce]
  case clear =>
    rintro ⟨package, mce⟩
    refine ⟨?_, fun w hw => ?_⟩
    · rw [if_pos package, machineCheck_of_going up running, if_neg (by simp [mce])]
    · simp [withPins, hw, anyMceClear_of_proc hx package mce up running]

end Sys2Proof.Machine
end

section
/-! O57: a store to ICR_LOW, performed, and the message it sends (R30, R305). -/

namespace Sys2Proof.Machine

open Sys2Proof

section

variable {s : State} {p : Nat} {x : Proc}

/-! ## The bytes of a doubleword -/

/-- Bit i of a value is bit i mod 8 of its byte i / 8. -/
theorem getLsbD_valueOf (bs : List Byte) (i : Nat) :
    (valueOf bs).getLsbD i = (decide (i < 64) && (bs.getD (i / 8) 0#8).getLsbD (i % 8)) := by
  induction bs generalizing i with
  | nil => simp [valueOf]
  | cons b bs ih =>
    rw [valueOf, BitVec.getLsbD_or, BitVec.getLsbD_setWidth, BitVec.getLsbD_shiftLeft, ih]
    by_cases first : i < 8
    · simp [first, Nat.div_eq_of_lt first, Nat.mod_eq_of_lt first]
    · have next : i / 8 = (i - 8) / 8 + 1 := by omega
      have bit : i % 8 = (i - 8) % 8 := by omega
      have beyond : b.getLsbD i = false := BitVec.getLsbD_of_ge b i (by omega)
      rw [next, bit, beyond, List.getD_cons_succ]
      by_cases inside : i < 64
      · simp [first, inside, show i - 8 < 64 by omega]
      · simp [inside]

/-- A doubleword is put together again from the four bytes a store of it writes (R70). -/
theorem setWidth_valueOf_bytes (v : W64) : (valueOf ((List.range 4).map (byteOf v))).setWidth 32 = v.setWidth 32 := by
  refine BitVec.eq_of_getLsbD_eq fun i hi => ?_
  have byte : ((List.range 4).map (byteOf v)).getD (i / 8) 0#8 = byteOf v (i / 8) := by
    simp [List.getD_eq_getElem?_getD, List.getElem?_range (show i / 8 < 4 by omega)]
  simp only [BitVec.getLsbD_setWidth, getLsbD_valueOf, byte, byteOf, BitVec.getLsbD_extractLsb', Nat.div_add_mod]
  simp [show i < 64 by omega, show i % 8 < 8 by omega]

/-! ## A register of the local APIC as the destination of a store -/

/-- In xAPIC mode one aligned doubleword at a register's address is that register (R30). -/
theorem apicRegOf_address (xapic : x.x2apic = false) (r : ApicReg) :
    apicRegOf x ((List.range 4).map (r.address + ·)) = some r := by
  have found : apicRegAt r.address = some r := by cases r <;> decide
  simp [apicRegOf, List.range_succ, xapic, found]

theorem writeData_register (hx : s.procs[p]? = some x) (xapic : x.x2apic = false) (r : ApicReg) (v : W64) :
    writeData s p (cellsOf r.address 4 v) = apicStore s p r (v.setWidth 32) := by
  have addresses : (cellsOf r.address 4 v).map (·.1) = (List.range 4).map (r.address + ·) := by simp [cellsOf]
  have bytes : (cellsOf r.address 4 v).map (·.2) = (List.range 4).map (byteOf v) := by simp [cellsOf]
  have register : ((s.procs[p]?).bind fun x => apicRegOf x ((List.range 4).map (r.address + ·))) = some r := by
    rw [hx, Option.bind_some, apicRegOf_address xapic]
  simp only [writeData, addresses, bytes, register, setWidth_valueOf_bytes]

/-! ## The message an ICR value encodes -/

/-- With the shorthand "all excluding self" a message goes to every processor but its sender (R305). -/
theorem sendIpi_allExcludingSelf {v : W32} {k : IpiKind} (shorthand : v.extractLsb' 18 2 = 3#2)
    (kind : ipiKindOf v = k) (s : State) (p : Nat) :
    sendIpi s p v =
      { s with ipis := s.ipis ++ ((List.range s.cfg.nproc).filter (· != p)).map fun q => ⟨some q, k⟩ } := by
  simp [sendIpi, sendTo, ipiDests, shorthand, kind, Function.comp_def]

/-- 000C4500H: INIT, to all excluding self. -/
theorem icr_init :
    ((0xC4500#64).setWidth 32).extractLsb' 18 2 = 3#2 ∧ ipiKindOf ((0xC4500#64).setWidth 32) = .init := by decide

/-- 000C46XXH: SIPI with vector XX, to all excluding self. -/
theorem icr_sipi (vv : Byte) :
    ((0xC4600#64 + vv.setWidth 64).setWidth 32).extractLsb' 18 2 = 3#2 ∧
      ipiKindOf ((0xC4600#64 + vv.setWidth 64).setWidth 32) = .sipi vv := by
  have value : ((0xC4600#64 + vv.setWidth 64).setWidth 32).toNat = 0xC4600 + vv.toNat := by
    simp only [BitVec.toNat_setWidth, BitVec.toNat_add, BitVec.toNat_ofNat]
    omega
  generalize (0xC4600#64 + vv.setWidth 64).setWidth 32 = v at value
  have bits (lo len : Nat) : (v.extractLsb' lo len).toNat = (0xC4600 + vv.toNat) / 2 ^ lo % 2 ^ len := by
    rw [BitVec.extractLsb'_toNat, value, Nat.shiftRight_eq_div_pow]
  have byte : vv.toNat < 256 := vv.isLt
  have shorthand : v.extractLsb' 18 2 = 3#2 := BitVec.eq_of_toNat_eq (by rw [bits, BitVec.toNat_ofNat]; omega)
  have mode : v.extractLsb' 8 3 = 6#3 := BitVec.eq_of_toNat_eq (by rw [bits, BitVec.toNat_ofNat]; omega)
  have vector : v.extractLsb' 0 8 = vv := BitVec.eq_of_toNat_eq (by rw [bits]; omega)
  have level : v.getLsbD 14 = true := by
    rw [BitVec.getLsbD, value, Nat.testBit_eq_decide_div_mod_eq, decide_eq_true_eq]
    omega
  exact ⟨shorthand, by simp [ipiKindOf, mode, level, vector]⟩

end

/-- Settles O57: the entry leaves Q_p for ICR_LOW, and the message of its value is sent. -/
theorem icrBroadcasts : Obligations.IcrBroadcasts := by
  intro s p i x v vv k hx xapic he may lock value
  have icr : (v.setWidth 32).extractLsb' 18 2 = 3#2 ∧ ipiKindOf (v.setWidth 32) = k := by
    rcases value with ⟨rfl, rfl⟩ | ⟨rfl, rfl⟩
    · exact icr_init
    · exact icr_sipi vv
  obtain ⟨shorthand, kind⟩ := icr
  have dequeued := State.setProc_self hx { x with queue := x.queue.eraseIdx i }
  have stored : performEntry (s.setProc p { x with queue := x.queue.eraseIdx i }) p (.w 0xFEE00300 4 v) =
      apicStore _ p .icrLow (v.setWidth 32) := writeData_register dequeued xapic .icrLow v
  rw [apicStore, if_pos rfl, sendIpi_allExcludingSelf shorthand kind] at stored
  exact ⟨_, _, (doEvent_perform hx he may lock).trans (congrArg _ stored), State.updProc_self dequeued _, rfl, rfl, rfl⟩

end Sys2Proof.Machine
end
